-- ==== Sys2Proof/Word.lean ====
section
/-! DEFINITION. The word types of the core: byte, bus word, window offset, the four-byte column that is
also a key word, and the sixteen-byte block. Their arithmetic stands in Machine/Blocks.lean. -/

namespace Sys2Proof

/-- An unsigned 8-bit value (R10); also an element of GF(2^8) (R15). -/
abbrev Byte := BitVec 8

/-- An unsigned 32-bit value (R10): a bus word or a control register. -/
abbrev Word := BitVec 32

/-- A byte offset within the 16 KiB window: the 14 bits of `paddr` (R44, R60). -/
abbrev Offset := BitVec 14

/-- A write-strobe mask, bit i for byte lane i (R44, R61). -/
abbrev Strobe := BitVec 4

/-- A sequence of four bytes, `r0` first: a column of the State, top row first (R12), or a key word,
whose "first byte" is `r0` (R69). -/
structure Quad where
  r0 : Byte
  r1 : Byte
  r2 : Byte
  r3 : Byte
  deriving DecidableEq, Repr

/-- A block: sixteen bytes (R11), held as the four columns of the State matrix, so byte `4c + r` is row
`r` of column `c` (R12). -/
structure Block where
  c0 : Quad
  c1 : Quad
  c2 : Quad
  c3 : Quad
  deriving DecidableEq, Repr

end Sys2Proof
end

