-- ==== Sys2Proof/Syntax.lean ====
section
/-! DEFINITION. The commands: one constructor for each row of spec/opcode_table.json. -/

namespace Sys2Proof

/-- A command of the core (R90, R94). `bsz` is the word's BSZ field, an unsigned block size in bytes (R92).
Only `pad` and `unpad` have a use for it. The other commands carry it so that no bit of the word is lost
(DESIGN CHOICE, log 10). -/
inductive Instr where
  /-- OP 0x0, R266. -/
  | nop (bsz : Nat)
  /-- OP 0x1, R145. -/
  | keyExpand (bsz : Nat)
  /-- OP 0x2, R194. -/
  | encBlock (bsz : Nat)
  /-- OP 0x3, R195. -/
  | decBlock (bsz : Nat)
  /-- OP 0x4, R212. -/
  | cbcEnc (bsz : Nat)
  /-- OP 0x5, R213. -/
  | cbcDec (bsz : Nat)
  /-- OP 0x6, R214. -/
  | cbcEncNoPad (bsz : Nat)
  /-- OP 0x7, R215. -/
  | cbcDecNoPad (bsz : Nat)
  /-- OP 0x8, R244. -/
  | pad (bsz : Nat)
  /-- OP 0x9, R245. -/
  | unpad (bsz : Nat)
  /-- OP 0xA, R267. -/
  | zeroize (bsz : Nat)
  /-- OP 0xB, reserved (R95, R268). -/
  | reservedB (bsz : Nat)
  /-- OP 0xC, reserved (R95, R268). -/
  | reservedC (bsz : Nat)
  /-- OP 0xD, reserved (R95, R268). -/
  | reservedD (bsz : Nat)
  /-- OP 0xE, reserved (R95, R268). -/
  | reservedE (bsz : Nat)
  /-- OP 0xF, reserved (R95, R268). -/
  | reservedF (bsz : Nat)
  deriving DecidableEq, Repr

/-- The BSZ field of a command's word (R90). -/
def Instr.bsz : Instr → Nat
  | .nop b => b
  | .keyExpand b => b
  | .encBlock b => b
  | .decBlock b => b
  | .cbcEnc b => b
  | .cbcDec b => b
  | .cbcEncNoPad b => b
  | .cbcDecNoPad b => b
  | .pad b => b
  | .unpad b => b
  | .zeroize b => b
  | .reservedB b => b
  | .reservedC b => b
  | .reservedD b => b
  | .reservedE b => b
  | .reservedF b => b

end Sys2Proof
end

