-- ==== Sys2Proof/WellFormed.lean ====
section
/-! DEFINITION. Which commands have a word: BSZ is a 16-bit field, 0..65535 (R90, R92). A block size that
PAD or UNPAD will refuse (0, or 256..65535) is well formed: the command runs and reports it (R242). -/

namespace Sys2Proof

/-- The block size fits the word's BSZ field, `w[23:8]` (R92). -/
abbrev Instr.WellFormed (i : Instr) : Prop := i.bsz ≤ 65535

end Sys2Proof
end

