-- ==== Sys2Proof/Decode.lean ====
section
/-! DEFINITION. The command word: its fields, its decoder (total on all 2^32 words, R96) and its encoder
(R90, R94, R99). A word is one bus word, so the decoder takes the whole of it (R97). -/

namespace Sys2Proof

/-- Why a word is no row of the opcode table. Such a word is a command too, Illegal (R93, R96). -/
inductive DecodeReject where
  /-- `w[7:4] != 0`: the field RES0 is not zero (R93). -/
  | res0NotZero
  /-- `w[31:24] != 0`, with RES0 zero: the field RES1 is not zero (R93). -/
  | res1NotZero
  deriving DecidableEq, Repr

/-- OP, `w[3:0]` (R91). -/
def opField (w : Word) : BitVec 4 := w.extractLsb' 0 4

/-- RES0, `w[7:4]` (R93). -/
def res0Field (w : Word) : BitVec 4 := w.extractLsb' 4 4

/-- BSZ, `w[23:8]`, not scaled and not shifted (R92). -/
def bszField (w : Word) : BitVec 16 := w.extractLsb' 8 16

/-- RES1, `w[31:24]` (R93). -/
def res1Field (w : Word) : BitVec 8 := w.extractLsb' 24 8

/-- The opcode map (R94, R95). -/
def instrOf (op : BitVec 4) (bsz : Nat) : Instr :=
  match op.toNat with
  | 0x0 => .nop bsz
  | 0x1 => .keyExpand bsz
  | 0x2 => .encBlock bsz
  | 0x3 => .decBlock bsz
  | 0x4 => .cbcEnc bsz
  | 0x5 => .cbcDec bsz
  | 0x6 => .cbcEncNoPad bsz
  | 0x7 => .cbcDecNoPad bsz
  | 0x8 => .pad bsz
  | 0x9 => .unpad bsz
  | 0xA => .zeroize bsz
  | 0xB => .reservedB bsz
  | 0xC => .reservedC bsz
  | 0xD => .reservedD bsz
  | 0xE => .reservedE bsz
  | _ => .reservedF bsz   -- 0xF: OP has four bits

/-- The decoder (R96). An `error` is the spec's Illegal for a word whose reserved fields are not zero. -/
def decode (w : Word) : Except DecodeReject Instr :=
  if res0Field w ≠ 0 then .error .res0NotZero
  else if res1Field w ≠ 0 then .error .res1NotZero
  else .ok (instrOf (opField w) (bszField w).toNat)

/-- The OP value of a command (R94). -/
def opOf : Instr → BitVec 4
  | .nop _ => 0x0
  | .keyExpand _ => 0x1
  | .encBlock _ => 0x2
  | .decBlock _ => 0x3
  | .cbcEnc _ => 0x4
  | .cbcDec _ => 0x5
  | .cbcEncNoPad _ => 0x6
  | .cbcDecNoPad _ => 0x7
  | .pad _ => 0x8
  | .unpad _ => 0x9
  | .zeroize _ => 0xA
  | .reservedB _ => 0xB
  | .reservedC _ => 0xC
  | .reservedD _ => 0xD
  | .reservedE _ => 0xE
  | .reservedF _ => 0xF

/-- The command word: RES1 = 0, BSZ, RES0 = 0, OP, from bit 31 down (R90, R94). -/
def encode (i : Instr) : Word := 0#8 ++ BitVec.ofNat 16 i.bsz ++ 0#4 ++ opOf i

/-- The instruction the decoder reads from a word of the opcode table. `nbits` bits of `w` count, and every
bit above them is 0; a command is one 32-bit word (R90, R97), so a longer one is none. -/
def decodeTableWord (nbits w : Nat) : Option Instr :=
  if nbits ≤ 32 then
    match decode (BitVec.ofNat 32 (w % 2 ^ nbits)) with
    | .ok i => some i
    | .error _ => none
  else none

end Sys2Proof
end

