-- ==== Sys2Proof/Machine/Blocks.lean ====
section
/-! DEFINITION. Byte sequences, columns and blocks: exclusive-or, and the conversions between a block and
its sixteen bytes (R10-R12, R70). -/

namespace Sys2Proof.Machine

/-- Apply a byte function to each of the four bytes. -/
def mapQuad (f : Byte → Byte) (q : Quad) : Quad := ⟨f q.r0, f q.r1, f q.r2, f q.r3⟩

/-- Apply a byte function to each of the sixteen lanes (R170). -/
def mapBlock (f : Byte → Byte) (b : Block) : Block :=
  ⟨mapQuad f b.c0, mapQuad f b.c1, mapQuad f b.c2, mapQuad f b.c3⟩

/-- Bytewise exclusive-or of two 4-byte sequences (R10, R140). -/
def xorQuad (a b : Quad) : Quad := ⟨a.r0 ^^^ b.r0, a.r1 ^^^ b.r1, a.r2 ^^^ b.r2, a.r3 ^^^ b.r3⟩

/-- Bytewise exclusive-or of two blocks (R10). -/
def xorBlock (a b : Block) : Block :=
  ⟨xorQuad a.c0 b.c0, xorQuad a.c1 b.c1, xorQuad a.c2 b.c2, xorQuad a.c3 b.c3⟩

/-- The four bytes of a column or key word, in order. -/
def quadBytes (q : Quad) : List Byte := [q.r0, q.r1, q.r2, q.r3]

/-- The sixteen bytes of a block, byte 0 first (R12). -/
def blockBytes (b : Block) : List Byte :=
  quadBytes b.c0 ++ quadBytes b.c1 ++ quadBytes b.c2 ++ quadBytes b.c3

/-- The four bytes that `f` gives at `i .. i+3`. -/
def quadFrom (f : Nat → Byte) (i : Nat) : Quad := ⟨f i, f (i + 1), f (i + 2), f (i + 3)⟩

/-- The block whose byte `k` is `f (i + k)` (R70). -/
def blockFrom (f : Nat → Byte) (i : Nat) : Block :=
  ⟨quadFrom f i, quadFrom f (i + 4), quadFrom f (i + 8), quadFrom f (i + 12)⟩

/-- Byte `i` of a byte sequence. Past the end it is 0x00, which no rule reads. -/
def byteAt (l : List Byte) (i : Nat) : Byte := l.getD i 0x00#8

/-- Block `j` of a byte sequence: its bytes `[16j .. 16j+16)` (R70). -/
def blockAt (l : List Byte) (j : Nat) : Block := blockFrom (byteAt l) (16 * j)

/-- The first `m` blocks of a byte sequence, in order. -/
def blocksOf (l : List Byte) (m : Nat) : List Block := (List.range m).map (blockAt l)

/-- The bytes of a sequence of blocks, in order. -/
def bytesOfBlocks (bs : List Block) : List Byte := bs.flatMap blockBytes

/-- Byte `i` of a block, `s[i]` (R12). -/
def blockByte (b : Block) (i : Nat) : Byte := byteAt (blockBytes b) i

/-- Element `[r, c]` of the State matrix, `s[4c + r]` (R12). -/
def blockElem (b : Block) (r c : Nat) : Byte := blockByte b (4 * c + r)

/-- The block of sixteen 0x00 bytes. -/
def zeroBlock : Block :=
  ⟨⟨0x00#8, 0x00#8, 0x00#8, 0x00#8⟩, ⟨0x00#8, 0x00#8, 0x00#8, 0x00#8⟩,
   ⟨0x00#8, 0x00#8, 0x00#8, 0x00#8⟩, ⟨0x00#8, 0x00#8, 0x00#8, 0x00#8⟩⟩

end Sys2Proof.Machine
end

