-- ==== Sys2Proof/Config.lean ====
section
/-! DEFINITION. What an instance of the core fixes, and the free values: what the spec leaves to a draw. -/

namespace Sys2Proof.Config

/-- The default capacity of IN_BUF and of OUT_BUF (R9, D6). State holds the capacity of the machine at
hand, so that a statement covers every legal one. -/
def defaultBufBytes : Nat := 4096

/-- The capacities R9 allows: multiples of 16 in 16..4096. -/
abbrev legalBufBytes (n : Nat) : Prop := 16 ≤ n ∧ n ≤ 4096 ∧ n % 16 = 0

/-- A free byte: the byte at index `i` of the draw numbered `draw` (R13 `unspecified()`, D38). Nothing is
known of it. -/
opaque freeByte (draw i : Nat) : Byte

/-- A free round number, 0..10: what ROUND holds between commands (R39, U6). -/
opaque freeRound (draw : Nat) : Fin 11

/-- A free block index: what BLK holds between commands (R39, U6). -/
opaque freeIndex (draw : Nat) : Nat

end Sys2Proof.Config
end

