-- ==== Sys2Proof/Machine/State.lean ====
section
/-! DEFINITION. The state of the core (10_state.md), as plain data, and its reset value (R42). -/

namespace Sys2Proof.Machine

/-- What the core stops with. It has no constructor: the core has no trap and stops for nothing (R306).
A failed command completes with an error code (R300), and a malformed transaction is answered ERROR
(R305); both are next states. Safe: there is nothing to raise. -/
inductive Fault : Type
  deriving DecidableEq, Repr

/-- Why the model gives a command no meaning. -/
inductive Refusal where
  /-- Raised by an arm of `exec` whose command has no meaning yet. No arm of this model raises it. Safe. -/
  | notModelled (mnemonic : String)
  deriving DecidableEq, Repr

/-- The error codes ERRCODE.CODE takes (R300). Codes 8..15 are reserved and never produced (U14). -/
inductive ErrCode where
  | none
  | illegalCmd
  | keyNotReady
  | lengthRange
  | invalidBlockSize
  | invalidBufferLength
  | invalidPadding
  | outputOverflow
  deriving DecidableEq, Repr

/-- What the bytes of a memory that no cell lists hold: zero, or the free values of one draw (R42, R264,
D38; log 2). -/
inductive Fill where
  | zero
  | draw (n : Nat)
  deriving DecidableEq, Repr

/-- A RAM of the core (IN_BUF, OUT_BUF or RK): the bytes written, by index, and what the others hold. Its
canonical form is `Memory.wf` in Machine/Ops.lean. -/
structure Memory where
  fill : Fill
  cells : List Host.Cell
  deriving DecidableEq, Repr

/-- The record `res` of a successful outcome (R264). -/
structure CmdResult where
  /-- The bytes for OUT_BUF, if the command produces output. -/
  out : Option (List Byte)
  /-- The new round-key schedule, if the command builds one. -/
  rk : Option (List Byte)
  /-- The command clears the core (R267). -/
  zeroize : Bool
  deriving DecidableEq, Repr

/-- A command's outcome, `fail(code)` or `ok(res)` (R264). -/
inductive CmdOutcome where
  | fail (code : ErrCode)
  | ok (res : CmdResult)
  deriving DecidableEq, Repr

/-- The controller's phase. BUSY holds PEND, the outcome of the command in flight; in IDLE there is none
(R40; log 15). -/
inductive Phase where
  | idle
  | busy (pend : CmdOutcome)
  deriving DecidableEq, Repr

/-- One thing that happens to the core from outside, or the controller's own step, in the order the list
`State.events` gives (R263, R310, R340; log 5). -/
inductive Event where
  /-- The host's `MemRead(off)` (R60). -/
  | read (off : Offset)
  /-- The host's `MemWrite(off, strb, v)` (R61). -/
  | write (off : Offset) (strb : Strobe) (v : Word)
  /-- The controller's completion falls here, if a command is in flight (R263). -/
  | complete
  /-- `rst_n` goes to 0 (R340). -/
  | resetAssert
  /-- `rst_n` goes back to 1 (R340). -/
  | resetRelease
  deriving DecidableEq, Repr

/-- The response of a transaction (R60, R61, R305): `pslverr` 0 or 1. -/
inductive Resp where
  | okay
  | error
  deriving DecidableEq, Repr

/-- What the bus answers: to a read, data and response; to a write, the response (R60, R61). -/
inductive Answer where
  | read (data : Word) (resp : Resp)
  | written (resp : Resp)
  deriving DecidableEq, Repr

/-- The state of the core and, below, the model's own fields. -/
structure State where
  /-- CTRL.IE (R23). -/
  ie : Bool
  /-- STATUS.DONE (R26). -/
  done : Bool
  /-- STATUS.WIB (R27). -/
  wib : Bool
  /-- ERRCODE.CODE (R28); STATUS.ERR is derived from it. -/
  errcode : ErrCode
  /-- IN_LEN (R29). -/
  inLen : Word
  /-- OUT_LEN (R32). -/
  outLen : Word
  /-- The constant BUFSZ reads: BUF_BYTES of this instance (R9, R33; log 4). -/
  bufBytes : Nat
  /-- The KEY window (R30). -/
  key : Block
  /-- The IV window (R31). -/
  iv : Block
  /-- IN_BUF, by byte index (R34). -/
  inBuf : Memory
  /-- OUT_BUF, by byte index (R35). -/
  outBuf : Memory
  /-- RK, the round-key schedule, by byte index (R37). -/
  rk : Memory
  /-- KEYV, seen as STATUS.KEYV (R36). -/
  keyv : Bool
  /-- PHASE and PEND (R40); STATUS.BUSY is derived from it. -/
  phase : Phase
  /-- `rst_n` is 0 (R340). -/
  inReset : Bool
  /-- The model's own: the draw under which STATE, ROUND, PREV and BLK hold free values (R39; log 3). -/
  datapath : Nat
  /-- The model's own: how many draws have been made (R13, D38; log 1). -/
  draws : Nat
  /-- The model's own: what is still to happen, in order (log 5). -/
  events : List Event
  /-- The model's own: what the bus has answered, newest first (log 8). -/
  answers : List Answer
  deriving DecidableEq, Repr

/-- The state right after reset (R42). IN_BUF, OUT_BUF, RK and the datapath registers hold free values
(log 1, log 2, log 3); no event is pending, since the core runs no program (R343; log 7). -/
def State.reset : State where
  ie := false
  done := false
  wib := false
  errcode := .none
  inLen := 0x00000000#32
  outLen := 0x00000000#32
  bufBytes := Config.defaultBufBytes
  key := ⟨⟨0x00#8, 0x00#8, 0x00#8, 0x00#8⟩, ⟨0x00#8, 0x00#8, 0x00#8, 0x00#8⟩,
    ⟨0x00#8, 0x00#8, 0x00#8, 0x00#8⟩, ⟨0x00#8, 0x00#8, 0x00#8, 0x00#8⟩⟩
  iv := ⟨⟨0x00#8, 0x00#8, 0x00#8, 0x00#8⟩, ⟨0x00#8, 0x00#8, 0x00#8, 0x00#8⟩,
    ⟨0x00#8, 0x00#8, 0x00#8, 0x00#8⟩, ⟨0x00#8, 0x00#8, 0x00#8, 0x00#8⟩⟩
  inBuf := ⟨.draw 0, []⟩
  outBuf := ⟨.draw 1, []⟩
  rk := ⟨.draw 2, []⟩
  keyv := false
  phase := .idle
  inReset := false
  datapath := 3
  draws := 4
  events := []
  answers := []

end Sys2Proof.Machine
end

