-- ==== Sys2Proof/Machine/Ops.lean ====
section
/-! DEFINITION. The named operations every meaning shares: the core's RAMs, and issue, commit, completion,
zeroization and reset (47_controller.md, 70_reset_and_hazards.md). -/

namespace Sys2Proof.Machine

/-! ### Memory -/

/-- What index `i` of a memory holds when no cell lists it (log 2): 0x00, or the free byte of the memory's
draw. -/
def fillByte (f : Fill) (i : Nat) : Byte :=
  match f with
  | .zero => 0x00#8
  | .draw n => Config.freeByte n i

/-- The byte that the cells list for index `i`, if they list one. -/
def findCell : List Host.Cell → Nat → Option Byte
  | [], _ => none
  | c :: r, i => if c.1 = i then some c.2 else findCell r i

/-- Read byte `i`. -/
def Memory.read (m : Memory) (i : Nat) : Byte := (findCell m.cells i).getD (fillByte m.fill i)

/-- Whether a cell that holds `b` is left out of the canonical form: it says no more than the fill does. -/
def redundant (f : Fill) (b : Byte) : Bool := f = .zero && b = 0x00#8

/-- List `b` at `i`, keeping the indexes strictly rising. -/
def insertCell (i : Nat) (b : Byte) : List Host.Cell → List Host.Cell
  | [] => [(i, b)]
  | c :: r =>
    if i < c.1 then (i, b) :: c :: r
    else if i = c.1 then (i, b) :: r
    else c :: insertCell i b r

/-- List nothing at `i`. -/
def eraseCell (i : Nat) : List Host.Cell → List Host.Cell
  | [] => []
  | c :: r => if c.1 = i then r else c :: eraseCell i r

/-- Write byte `b` at index `i`. -/
def Memory.write (m : Memory) (i : Nat) (b : Byte) : Memory :=
  if redundant m.fill b then { m with cells := eraseCell i m.cells }
  else { m with cells := insertCell i b m.cells }

/-- The cells that list a byte sequence from index `i` on, in canonical form. -/
def listFrom (f : Fill) (i : Nat) : List Byte → List Host.Cell
  | [] => []
  | b :: r => if redundant f b then listFrom f (i + 1) r else (i, b) :: listFrom f (i + 1) r

/-- The memory that holds a byte sequence from index 0 on, and the fill everywhere after it. -/
def Memory.ofBytes (f : Fill) (l : List Byte) : Memory := ⟨f, listFrom f 0 l⟩

/-- The bytes `[0 .. n)` of a memory (R71). -/
def Memory.bytes (m : Memory) (n : Nat) : List Byte := (List.range n).map m.read

/-- The canonical form: the indexes strictly rise, and no cell lists what a zero fill reads as (log 2). -/
abbrev Memory.wf (m : Memory) : Prop :=
  m.cells.Pairwise (fun c d => c.1 < d.1) ∧ ∀ c ∈ m.cells, redundant m.fill c.2 = false

/-! ### The command lifecycle -/

/-- STATUS.BUSY: the phase is BUSY (R40). -/
def isBusy (s : State) : Bool :=
  match s.phase with
  | .idle => false
  | .busy _ => true

/-- Issue (R260): clear DONE and ERRCODE, hold the outcome as PEND and become BUSY. On a busy core the CMD
write is dropped and sets WIB (R262; log 12). -/
def issue (o : CmdOutcome) (s : State) : State :=
  match s.phase with
  | .busy _ => { s with wib := true }
  | .idle =>
    { s with
      done := false
      errcode := .none
      phase := .busy o
      datapath := s.draws
      draws := s.draws + 1 }

/-- Commit of `fail(code)`, the core's one way of taking an error (R264, R300, R304): only the code. -/
def commitFail (code : ErrCode) (s : State) : State := { s with errcode := code }

/-- Commit of the `out` field (R264): the result bytes, then a fresh draw for each byte at and beyond
OUT_LEN (D12). -/
def commitOut (l : List Byte) (s : State) : State :=
  { s with
    outBuf := Memory.ofBytes (.draw s.draws) l
    outLen := BitVec.ofNat 32 l.length
    draws := s.draws + 1 }

/-- Commit of the `rk` field (R264): the schedule, and KEYV. -/
def commitRk (l : List Byte) (s : State) : State :=
  { s with
    rk := Memory.ofBytes .zero l
    keyv := true }

/-- `ZeroizeState()` (R267). CTRL and WIB are unchanged. -/
def zeroizeState (s : State) : State :=
  { s with
    key := zeroBlock
    iv := zeroBlock
    inLen := 0x00000000#32
    outLen := 0x00000000#32
    inBuf := ⟨.zero, []⟩
    outBuf := ⟨.zero, []⟩
    rk := ⟨.zero, []⟩
    keyv := false }

/-- Commit of `ok(res)` (R264): the fields of `res` in the order the rule takes them. -/
def commitOk (r : CmdResult) (s : State) : State :=
  let s := { s with errcode := .none }
  let s := match r.out with
    | some l => commitOut l s
    | none => s
  let s := match r.rk with
    | some l => commitRk l s
    | none => s
  if r.zeroize then zeroizeState s else s

/-- Commit of an outcome (R264). -/
def commit (o : CmdOutcome) (s : State) : State :=
  match o with
  | .fail code => commitFail code s
  | .ok r => commitOk r s

/-- Completion (R263): commit PEND, become IDLE, set DONE. While IDLE the controller has no step. The
datapath registers hold unspecified values afterwards (R39; log 3). -/
def complete (s : State) : State :=
  match s.phase with
  | .idle => s
  | .busy o =>
    let u := commit o s
    { u with
      phase := .idle
      done := true
      datapath := u.draws
      draws := u.draws + 1 }

/-- `Reset()` (R340, R342): every piece of state at its value of R42, whatever was in flight. The unspecified
ones are drawn afresh; BUF_BYTES is a constant; the model's own lists of events and answers stay
(log 9). -/
def resetState (s : State) : State :=
  { State.reset with
    bufBytes := s.bufBytes
    inBuf := ⟨.draw s.draws, []⟩
    outBuf := ⟨.draw (s.draws + 1), []⟩
    rk := ⟨.draw (s.draws + 2), []⟩
    datapath := s.draws + 3
    draws := s.draws + 4
    events := s.events
    answers := s.answers }

/-! ### The datapath registers (R39): free values, which no rule outside the command functions reads -/

/-- STATE, sixteen bytes. -/
def datapathState (s : State) : Block := blockFrom (Config.freeByte s.datapath) 0

/-- PREV, sixteen bytes. -/
def datapathPrev (s : State) : Block := blockFrom (Config.freeByte s.datapath) 16

/-- ROUND, 0..10. -/
def datapathRound (s : State) : Fin 11 := Config.freeRound s.datapath

/-- BLK, a block index. -/
def datapathBlk (s : State) : Nat := Config.freeIndex s.datapath

end Sys2Proof.Machine
end

