-- ==== Sys2Proof/Machine/Operands.lean ====
section
/-! DEFINITION. A command's operands: the snapshot of its inputs taken at issue (R261), and the parts of it
that the semantic functions name. -/

namespace Sys2Proof.Machine

/-- The record `Snapshot()` gives (R261), with the instance's BUF_BYTES beside it (R9). -/
structure Snapshot where
  key : Block
  iv : Block
  inLen : Word
  inBuf : Memory
  rk : Memory
  keyv : Bool
  bufBytes : Nat
  deriving DecidableEq, Repr

/-- The values at the issuing write (R261). -/
def snapshot (s : State) : Snapshot :=
  { key := s.key, iv := s.iv, inLen := s.inLen, inBuf := s.inBuf, rk := s.rk, keyv := s.keyv,
    bufBytes := s.bufBytes }

/-- `n = snap.IN_LEN` as a natural number. -/
def inputLength (p : Snapshot) : Nat := p.inLen.toNat

/-- `D = snap.IN_BUF[0..n)`. -/
def inputData (p : Snapshot) : List Byte := p.inBuf.bytes (inputLength p)

/-- `snap.IN_BUF[0..16)`, the block of ENC_BLOCK and DEC_BLOCK, whatever IN_LEN is (R194, R353). -/
def inputBlock (p : Snapshot) : Block := blockFrom p.inBuf.read 0

/-- `snap.RK`, 176 bytes (R37). -/
def schedule (p : Snapshot) : List Byte := p.rk.bytes 176

/-- The outcome that produces output bytes and nothing else. -/
def okOut (l : List Byte) : CmdOutcome := .ok { out := some l, rk := none, zeroize := false }

end Sys2Proof.Machine
end

