-- ==== Sys2Proof/Machine/Control.lean ====
section
/-! DEFINITION. The controller's own commands: NOP, ZEROIZE and the reserved opcodes (47_controller.md). -/

namespace Sys2Proof.Machine

/-- What every meaning answers: the command is issued with its outcome. Completion commits it (R260, R263). -/
def issued (o : CmdOutcome) (s : State) : Host.Outcome State Fault Refusal := .next (issue o s)

/-- `Exec` of Illegal (R268). -/
def outcomeIllegal : CmdOutcome := .fail .illegalCmd

/-- `Exec` of NOP (R266). -/
def outcomeNop : CmdOutcome := .ok { out := none, rk := none, zeroize := false }

/-- `Exec` of ZEROIZE (R267). -/
def outcomeZeroize : CmdOutcome := .ok { out := none, rk := none, zeroize := true }

/-- NOP (R266). -/
def execNop (s : State) : Host.Outcome State Fault Refusal := issued outcomeNop s

/-- ZEROIZE (R267). -/
def execZeroize (s : State) : Host.Outcome State Fault Refusal := issued outcomeZeroize s

/-- OP 0xB (R95, R268). -/
def execReservedB (s : State) : Host.Outcome State Fault Refusal := issued outcomeIllegal s

/-- OP 0xC (R95, R268). -/
def execReservedC (s : State) : Host.Outcome State Fault Refusal := issued outcomeIllegal s

/-- OP 0xD (R95, R268). -/
def execReservedD (s : State) : Host.Outcome State Fault Refusal := issued outcomeIllegal s

/-- OP 0xE (R95, R268). -/
def execReservedE (s : State) : Host.Outcome State Fault Refusal := issued outcomeIllegal s

/-- OP 0xF (R95, R268). -/
def execReservedF (s : State) : Host.Outcome State Fault Refusal := issued outcomeIllegal s

end Sys2Proof.Machine
end

