-- ==== Sys2Proof/Machine/Rounds.lean ====
section
/-! DEFINITION. The round transforms and their inverses (43_round_transform.md): pure functions on the
16-byte State, total and failure-free (R168). -/

namespace Sys2Proof.Machine

/-- Round `r`'s key, `RK[16r .. 16r+16)` (R143). -/
def roundKey (rk : List Byte) (r : Nat) : Block := blockFrom (byteAt rk) (16 * r)

/-- XOR the State with round `r`'s slice of the schedule (R160). -/
def addRoundKey (s : Block) (rk : List Byte) (r : Nat) : Block := xorBlock s (roundKey rk r)

/-- Byte-wise lookup through the forward S-box (R161). -/
def subBytes (s : Block) : Block := mapBlock sbox s

/-- Byte-wise lookup through the inverse S-box (R162). -/
def invSubBytes (s : Block) : Block := mapBlock invSbox s

/-- Row `r` rotated left by `r` columns: `s'[r,c] = s[r, (c+r) mod 4]` (R163). -/
def shiftRows (s : Block) : Block :=
  ⟨⟨s.c0.r0, s.c1.r1, s.c2.r2, s.c3.r3⟩, ⟨s.c1.r0, s.c2.r1, s.c3.r2, s.c0.r3⟩,
   ⟨s.c2.r0, s.c3.r1, s.c0.r2, s.c1.r3⟩, ⟨s.c3.r0, s.c0.r1, s.c1.r2, s.c2.r3⟩⟩

/-- Row `r` rotated right by `r` columns: `s'[r,c] = s[r, (c-r) mod 4]` (R164). -/
def invShiftRows (s : Block) : Block :=
  ⟨⟨s.c0.r0, s.c3.r1, s.c2.r2, s.c1.r3⟩, ⟨s.c1.r0, s.c0.r1, s.c3.r2, s.c2.r3⟩,
   ⟨s.c2.r0, s.c1.r1, s.c0.r2, s.c3.r3⟩, ⟨s.c3.r0, s.c2.r1, s.c1.r2, s.c0.r3⟩⟩

/-- One column of MixColumns, computed with `xtime` as the datapath does (R166; 90_conflicts.md C2, C7). -/
def mixColumn (a : Quad) : Quad :=
  let t := a.r0 ^^^ a.r1 ^^^ a.r2 ^^^ a.r3
  ⟨a.r0 ^^^ t ^^^ xtime (a.r0 ^^^ a.r1), a.r1 ^^^ t ^^^ xtime (a.r1 ^^^ a.r2),
   a.r2 ^^^ t ^^^ xtime (a.r2 ^^^ a.r3), a.r3 ^^^ t ^^^ xtime (a.r3 ^^^ a.r0)⟩

/-- MixColumns: each of the four columns on its own (R165, R166). -/
def mixColumns (s : Block) : Block :=
  ⟨mixColumn s.c0, mixColumn s.c1, mixColumn s.c2, mixColumn s.c3⟩

/-- One column of InvMixColumns, the inverse matrix by `gf_mul` (R167). -/
def invMixColumn (a : Quad) : Quad :=
  ⟨gfMul 0x0E#8 a.r0 ^^^ gfMul 0x0B#8 a.r1 ^^^ gfMul 0x0D#8 a.r2 ^^^ gfMul 0x09#8 a.r3,
   gfMul 0x09#8 a.r0 ^^^ gfMul 0x0E#8 a.r1 ^^^ gfMul 0x0B#8 a.r2 ^^^ gfMul 0x0D#8 a.r3,
   gfMul 0x0D#8 a.r0 ^^^ gfMul 0x09#8 a.r1 ^^^ gfMul 0x0E#8 a.r2 ^^^ gfMul 0x0B#8 a.r3,
   gfMul 0x0B#8 a.r0 ^^^ gfMul 0x0D#8 a.r1 ^^^ gfMul 0x09#8 a.r2 ^^^ gfMul 0x0E#8 a.r3⟩

/-- InvMixColumns: each of the four columns on its own (R167). -/
def invMixColumns (s : Block) : Block :=
  ⟨invMixColumn s.c0, invMixColumn s.c1, invMixColumn s.c2, invMixColumn s.c3⟩

end Sys2Proof.Machine
end

