-- ==== Sys2Proof/Machine/Cipher.lean ====
section
/-! DEFINITION. The block cipher, ENC_BLOCK and DEC_BLOCK (44_block_cipher.md). -/

namespace Sys2Proof.Machine

/-- `n` middle rounds of encryption, from round `r` up (R190). -/
def encryptRounds (rk : List Byte) : Nat → Nat → Block → Block
  | 0, _, s => s
  | n + 1, r, s => encryptRounds rk n (r + 1) (addRoundKey (mixColumns (shiftRows (subBytes s))) rk r)

/-- `EncryptBlock(RK, in)` (R190): round 0, rounds 1 to 9, and round 10 without MixColumns. -/
def encryptBlock (rk : List Byte) (x : Block) : Block :=
  let s := encryptRounds rk 9 1 (addRoundKey x rk 0)
  addRoundKey (shiftRows (subBytes s)) rk 10

/-- The middle rounds of decryption, from round `n` down to round 1 (R191). -/
def decryptRounds (rk : List Byte) : Nat → Block → Block
  | 0, s => s
  | n + 1, s => decryptRounds rk n (invMixColumns (addRoundKey (invSubBytes (invShiftRows s)) rk (n + 1)))

/-- `DecryptBlock(RK, in)` (R191): round 10, rounds 9 to 1, and round 0 without InvMixColumns. -/
def decryptBlock (rk : List Byte) (x : Block) : Block :=
  let s := decryptRounds rk 9 (addRoundKey x rk 10)
  addRoundKey (invSubBytes (invShiftRows s)) rk 0

/-- `Exec_EncBlock(snap)` (R194). -/
def outcomeEncBlock (p : Snapshot) : CmdOutcome :=
  if p.keyv = false then .fail .keyNotReady
  else okOut (blockBytes (encryptBlock (schedule p) (inputBlock p)))

/-- `Exec_DecBlock(snap)` (R195). -/
def outcomeDecBlock (p : Snapshot) : CmdOutcome :=
  if p.keyv = false then .fail .keyNotReady
  else okOut (blockBytes (decryptBlock (schedule p) (inputBlock p)))

/-- ENC_BLOCK (R194). -/
def execEncBlock (s : State) : Host.Outcome State Fault Refusal :=
  issued (outcomeEncBlock (snapshot s)) s

/-- DEC_BLOCK (R195). -/
def execDecBlock (s : State) : Host.Outcome State Fault Refusal :=
  issued (outcomeDecBlock (snapshot s)) s

end Sys2Proof.Machine
end

