-- ==== Sys2Proof/Machine/Pkcs.lean ====
section
/-! DEFINITION. The PKCS#7 padder and unpadder, PAD and UNPAD (46_pkcs7.md). -/

namespace Sys2Proof.Machine

/-- The pad length: `n - (len mod n)`, and `n` where that would be 0, which never happens (R240). -/
def padLength (len n : Nat) : Nat :=
  let p := n - len % n
  if p = 0 then n else p

/-- `Pad(d, n)` (R240). -/
def padBytes (d : List Byte) (n : Nat) : Except ErrCode (List Byte) :=
  if n = 0 ∨ n > 255 then .error .invalidBlockSize
  else
    let p := padLength d.length n
    .ok (d ++ List.replicate p (BitVec.ofNat 8 p))

/-- `Unpad(d, n)` (R241), with the block-size check first (R242). -/
def unpadBytes (d : List Byte) (n : Nat) : Except ErrCode (List Byte) :=
  if n = 0 ∨ n > 255 then .error .invalidBlockSize
  else if d.length = 0 ∨ d.length % n ≠ 0 then .error .invalidPadding
  else
    let p := (byteAt d (d.length - 1)).toNat
    if p = 0 ∨ p > n ∨ p > d.length then .error .invalidPadding
    else if (d.drop (d.length - p)).all (fun b => b.toNat = p) then .ok (d.take (d.length - p))
    else .error .invalidPadding

/-- `Exec_Pad(snap, bsz)` (R244). -/
def outcomePad (p : Snapshot) (bsz : Nat) : CmdOutcome :=
  if inputLength p > p.bufBytes then .fail .lengthRange
  else
    match padBytes (inputData p) bsz with
    | .error e => .fail e
    | .ok l => if l.length > p.bufBytes then .fail .outputOverflow else okOut l

/-- `Exec_Unpad(snap, bsz)` (R245). -/
def outcomeUnpad (p : Snapshot) (bsz : Nat) : CmdOutcome :=
  if inputLength p > p.bufBytes then .fail .lengthRange
  else
    match unpadBytes (inputData p) bsz with
    | .error e => .fail e
    | .ok l => okOut l

/-- PAD (R244). -/
def execPad (bsz : Nat) (s : State) : Host.Outcome State Fault Refusal :=
  issued (outcomePad (snapshot s) bsz) s

/-- UNPAD (R245). -/
def execUnpad (bsz : Nat) (s : State) : Host.Outcome State Fault Refusal :=
  issued (outcomeUnpad (snapshot s) bsz) s

end Sys2Proof.Machine
end

