-- ==== Sys2Proof/Machine/Cbc.lean ====
section
/-! DEFINITION. CBC chaining: CBC_ENC, CBC_DEC, CBC_ENC_NOPAD and CBC_DEC_NOPAD (45_cbc.md). -/

namespace Sys2Proof.Machine

/-- Encrypt a sequence of blocks, each XORed with the ciphertext block before it, the first with `prev`
(R210). -/
def cbcEncryptChain (rk : List Byte) : Block → List Block → List Block
  | _, [] => []
  | prev, x :: r =>
    let c := encryptBlock rk (xorBlock x prev)
    c :: cbcEncryptChain rk c r

/-- Decrypt a sequence of blocks, XORing each with the ciphertext block before it, the first with `prev`
(R211). -/
def cbcDecryptChain (rk : List Byte) : Block → List Block → List Block
  | _, [] => []
  | prev, c :: r => xorBlock (decryptBlock rk c) prev :: cbcDecryptChain rk c r

/-- `CbcEncryptBlocks(RK, IV, P)` for a P of whole blocks (R210). -/
def cbcEncryptBlocks (rk : List Byte) (iv : Block) (p : List Byte) : List Byte :=
  bytesOfBlocks (cbcEncryptChain rk iv (blocksOf p (p.length / 16)))

/-- `CbcDecryptBlocks(RK, IV, C)` for a C of whole blocks (R211). -/
def cbcDecryptBlocks (rk : List Byte) (iv : Block) (c : List Byte) : List Byte :=
  bytesOfBlocks (cbcDecryptChain rk iv (blocksOf c (c.length / 16)))

/-- `Exec_CbcEnc(snap)` (R212). -/
def outcomeCbcEnc (p : Snapshot) : CmdOutcome :=
  if p.keyv = false then .fail .keyNotReady
  else if inputLength p > p.bufBytes then .fail .lengthRange
  else
    match padBytes (inputData p) 16 with
    | .error e => .fail e
    | .ok l =>
      if l.length > p.bufBytes then .fail .outputOverflow
      else okOut (cbcEncryptBlocks (schedule p) p.iv l)

/-- `Exec_CbcDec(snap)` (R213). Nothing of the decrypted data is seen when the padding is bad (R218). -/
def outcomeCbcDec (p : Snapshot) : CmdOutcome :=
  if p.keyv = false then .fail .keyNotReady
  else if inputLength p > p.bufBytes then .fail .lengthRange
  else if inputLength p = 0 ∨ inputLength p % 16 ≠ 0 then .fail .invalidBufferLength
  else
    match unpadBytes (cbcDecryptBlocks (schedule p) p.iv (inputData p)) 16 with
    | .error e => .fail e
    | .ok l => okOut l

/-- `Exec_CbcEncNoPad(snap)` (R214). -/
def outcomeCbcEncNoPad (p : Snapshot) : CmdOutcome :=
  if p.keyv = false then .fail .keyNotReady
  else if inputLength p > p.bufBytes then .fail .lengthRange
  else if inputLength p = 0 ∨ inputLength p % 16 ≠ 0 then .fail .invalidBufferLength
  else okOut (cbcEncryptBlocks (schedule p) p.iv (inputData p))

/-- `Exec_CbcDecNoPad(snap)` (R215). -/
def outcomeCbcDecNoPad (p : Snapshot) : CmdOutcome :=
  if p.keyv = false then .fail .keyNotReady
  else if inputLength p > p.bufBytes then .fail .lengthRange
  else if inputLength p = 0 ∨ inputLength p % 16 ≠ 0 then .fail .invalidBufferLength
  else okOut (cbcDecryptBlocks (schedule p) p.iv (inputData p))

/-- CBC_ENC (R212). -/
def execCbcEnc (s : State) : Host.Outcome State Fault Refusal :=
  issued (outcomeCbcEnc (snapshot s)) s

/-- CBC_DEC (R213). -/
def execCbcDec (s : State) : Host.Outcome State Fault Refusal :=
  issued (outcomeCbcDec (snapshot s)) s

/-- CBC_ENC_NOPAD (R214). -/
def execCbcEncNoPad (s : State) : Host.Outcome State Fault Refusal :=
  issued (outcomeCbcEncNoPad (snapshot s)) s

/-- CBC_DEC_NOPAD (R215). -/
def execCbcDecNoPad (s : State) : Host.Outcome State Fault Refusal :=
  issued (outcomeCbcDecNoPad (snapshot s)) s

end Sys2Proof.Machine
end

