-- ==== Sys2Proof/Machine/KeySchedule.lean ====
section
/-! DEFINITION. The key schedule and KEY_EXPAND (42_key_schedule.md). -/

namespace Sys2Proof.Machine

/-- The round constants, `RCON[0..10]` (R141). -/
def rcon (i : Nat) : Byte :=
  [0x00#8, 0x01, 0x02, 0x04, 0x08, 0x10, 0x20, 0x40, 0x80, 0x1B, 0x36].getD i 0x00#8

/-- Rotate a word's bytes left by one position (R142). -/
def rotWord (t : Quad) : Quad := ⟨t.r1, t.r2, t.r3, t.r0⟩

/-- Substitute each byte of a word through the forward S-box (R142). -/
def subWord (t : Quad) : Quad := mapQuad sbox t

/-- What word `i` takes from word `i - 1` before the XOR with word `i - 4` (R140; `i` is the index of the
new word, 90_conflicts.md C3). -/
def scheduleTemp (i : Nat) (t : Quad) : Quad :=
  if i % 4 = 0 then
    let u := subWord (rotWord t)
    { u with r0 := u.r0 ^^^ rcon (i / 4) }
  else t

/-- The `n` words from word `i` on, after the four words `i-4 .. i-1` (R140). -/
def expandFrom : Nat → Nat → Quad → Quad → Quad → Quad → List Quad
  | 0, _, _, _, _, _ => []
  | n + 1, i, a, b, c, d =>
    let w := xorQuad (scheduleTemp i d) a
    w :: expandFrom n (i + 1) b c d w

/-- The 44 words of the schedule (R140). -/
def keyWords (k : Block) : List Quad :=
  [k.c0, k.c1, k.c2, k.c3] ++ expandFrom 40 4 k.c0 k.c1 k.c2 k.c3

/-- `KeyExpansion(K)`, 176 bytes (R140). -/
def keyExpansion (k : Block) : List Byte := (keyWords k).flatMap quadBytes

/-- `Exec_KeyExpand(snap)` (R145). -/
def outcomeKeyExpand (p : Snapshot) : CmdOutcome :=
  .ok { out := none, rk := some (keyExpansion p.key), zeroize := false }

/-- KEY_EXPAND (R145). -/
def execKeyExpand (s : State) : Host.Outcome State Fault Refusal :=
  issued (outcomeKeyExpand (snapshot s)) s

end Sys2Proof.Machine
end

