-- ==== Sys2Proof/Machine/Dispatch.lean ====
section
/-! DEFINITION. Dispatch (R265): one arm for each command. `exec i s` is the effect, on state `s`, of the
CMD write of the command's word (R260, R262; log 12). BSZ is ignored but by PAD and UNPAD (R92). -/

namespace Sys2Proof.Machine

def exec (i : Instr) (s : State) : Host.Outcome State Fault Refusal :=
  match i with
  | .nop _ => Sys2Proof.Machine.execNop s
  | .keyExpand _ => Sys2Proof.Machine.execKeyExpand s
  | .encBlock _ => Sys2Proof.Machine.execEncBlock s
  | .decBlock _ => Sys2Proof.Machine.execDecBlock s
  | .cbcEnc _ => Sys2Proof.Machine.execCbcEnc s
  | .cbcDec _ => Sys2Proof.Machine.execCbcDec s
  | .cbcEncNoPad _ => Sys2Proof.Machine.execCbcEncNoPad s
  | .cbcDecNoPad _ => Sys2Proof.Machine.execCbcDecNoPad s
  | .pad bsz => Sys2Proof.Machine.execPad bsz s
  | .unpad bsz => Sys2Proof.Machine.execUnpad bsz s
  | .zeroize _ => Sys2Proof.Machine.execZeroize s
  | .reservedB _ => Sys2Proof.Machine.execReservedB s
  | .reservedC _ => Sys2Proof.Machine.execReservedC s
  | .reservedD _ => Sys2Proof.Machine.execReservedD s
  | .reservedE _ => Sys2Proof.Machine.execReservedE s
  | .reservedF _ => Sys2Proof.Machine.execReservedF s

end Sys2Proof.Machine
end

