-- ==== Sys2Proof/Machine/Flags.lean ====
section
/-! DEFINITION. The control registers as the bus sees them: the error codes' numbers, the words that reads
return, what a write to CTRL, STATUS and IN_LEN does, and the interrupt output. -/

namespace Sys2Proof.Machine

/-- The number of an error code (R300). -/
def errNumber : ErrCode → BitVec 4
  | .none => 0
  | .illegalCmd => 1
  | .keyNotReady => 2
  | .lengthRange => 3
  | .invalidBlockSize => 4
  | .invalidBufferLength => 5
  | .invalidPadding => 6
  | .outputOverflow => 7

/-- STATUS.ERR: `ERRCODE.CODE != 0` (R25, R302). -/
def errFlag (s : State) : Bool := errNumber s.errcode != 0

/-- The interrupt output, `CTRL.IE & STATUS.DONE`, and 0 while `rst_n` is 0 (R41, R308, R340). -/
def irq (s : State) : Bool := !s.inReset && (s.ie && s.done)

/-- The constant ID reads: "AES1" (R22). -/
def idWord : Word := 0x41455331#32

/-- CTRL as read: IE in bit 0, the rest 0 (R23). -/
def ctrlWord (s : State) : Word := 0#31 ++ BitVec.ofBool s.ie

/-- STATUS as read: WIB, KEYV, ERR, DONE and BUSY in bits 4 down to 0, the rest 0 (R25). -/
def statusWord (s : State) : Word :=
  0#27 ++ BitVec.ofBool s.wib ++ BitVec.ofBool s.keyv ++ BitVec.ofBool (errFlag s) ++
    BitVec.ofBool s.done ++ BitVec.ofBool (isBusy s)

/-- ERRCODE as read: CODE in bits 3:0, the rest 0 (R28). -/
def errcodeWord (s : State) : Word := 0#28 ++ errNumber s.errcode

/-- A write to CTRL: IE takes bit 0, busy or idle (R23, R66). -/
def writeCtrl (v : Word) (s : State) : State := { s with ie := v.getLsbD 0 }

/-- A write to STATUS: 1 clears DONE (bit 1) and WIB (bit 4); every other bit is ignored, busy or idle
(R25, R66). -/
def writeStatus (v : Word) (s : State) : State :=
  { s with
    done := s.done && !v.getLsbD 1
    wib := s.wib && !v.getLsbD 4 }

/-- A write to IN_LEN: all 32 bits when idle; dropped with WIB when busy (R29, R66). -/
def writeInLen (v : Word) (s : State) : State :=
  if isBusy s then { s with wib := true } else { s with inLen := v }

end Sys2Proof.Machine
end

