-- ==== Sys2Proof/Machine/Bus.lean ====
section
/-! DEFINITION. The bus: the address map, MemRead and MemWrite (20_memory.md); and what one event does to the
core (R263, R310, R340). -/

namespace Sys2Proof.Machine

/-! ### Words, lanes and the map -/

/-- Byte lane `i` of a word, `v[8i+7:8i]` (R62). -/
def lane (v : Word) (i : Nat) : Byte := v.extractLsb' (8 * i) 8

/-- The word formed from the four locations `off .. off+3`, lane `i` from `off + i` (R60, R62). -/
def wordFrom (f : Nat → Byte) (off : Nat) : Word := f (off + 3) ++ f (off + 2) ++ f (off + 1) ++ f off

/-- The offset lies in IN_BUF's window (R64). -/
def inInBuf (bufBytes off : Nat) : Bool := decide (0x1000 ≤ off) && decide (off < 0x1000 + bufBytes)

/-- The offset lies in OUT_BUF's window (R64). -/
def inOutBuf (bufBytes off : Nat) : Bool := decide (0x2000 ≤ off) && decide (off < 0x2000 + bufBytes)

/-- The offset is mapped (R64). -/
def mapped (bufBytes off : Nat) : Bool := decide (off < 0x040) || inInBuf bufBytes off || inOutBuf bufBytes off

/-- The transaction is malformed whatever it does: misaligned or unmapped (R63, R65). -/
def badOffset (s : State) (off : Offset) : Bool := off.toNat % 4 != 0 || !mapped s.bufBytes off.toNat

/-! ### Reading -/

/-- Control register number `k`, at offset `4k` (R64). CMD reads 0 (R24). -/
def controlReg (s : State) (k : Nat) : Word :=
  match k with
  | 0 => idWord
  | 1 => ctrlWord s
  | 2 => 0x00000000#32
  | 3 => statusWord s
  | 4 => errcodeWord s
  | 5 => s.inLen
  | 6 => s.outLen
  | 7 => BitVec.ofNat 32 s.bufBytes
  | _ => 0x00000000#32

/-- The byte a read returns for the mapped location at offset `a` (R64). KEY reads 0 (R30, R68). -/
def loadByte (s : State) (a : Nat) : Byte :=
  if a < 0x020 then lane (controlReg s (a / 4)) (a % 4)
  else if a < 0x030 then 0x00#8
  else if a < 0x040 then blockByte s.iv (a - 0x030)
  else if a < 0x2000 then s.inBuf.read (a - 0x1000)
  else s.outBuf.read (a - 0x2000)

/-- Record what the bus answers (log 8). -/
def answer (a : Answer) (s : State) : State := { s with answers := a :: s.answers }

/-- `MemRead(off)` (R60, R63, R65). A read of OUT_BUF while busy answers a free word, drawn afresh (R73;
log 16). -/
def memRead (off : Offset) (s : State) : State :=
  if badOffset s off then answer (.read 0x00000000#32 .error) s
  else if isBusy s && inOutBuf s.bufBytes off.toNat then
    answer (.read (wordFrom (Config.freeByte s.draws) 0) .okay) { s with draws := s.draws + 1 }
  else answer (.read (wordFrom (loadByte s) off.toNat) .okay) s

/-! ### Writing -/

/-- Store byte `b` at index `i` of the KEY window (R30). -/
def storeKey (i : Nat) (b : Byte) (s : State) : State :=
  { s with key := blockFrom (fun k => if k = i then b else blockByte s.key k) 0 }

/-- Store byte `b` at index `i` of the IV window (R31). -/
def storeIv (i : Nat) (b : Byte) (s : State) : State :=
  { s with iv := blockFrom (fun k => if k = i then b else blockByte s.iv k) 0 }

/-- Store byte `b` at index `i` of IN_BUF (R34). -/
def storeInBuf (i : Nat) (b : Byte) (s : State) : State := { s with inBuf := s.inBuf.write i b }

/-- Store the lane `i` of `v` at index `base + i` if its strobe is set (R62, R67). -/
def storeLane (store : Nat → Byte → State → State) (base : Nat) (strb : Strobe) (v : Word) (i : Nat)
    (s : State) : State :=
  if strb.getLsbD i then store (base + i) (lane v i) s else s

/-- A write to KEY, IV or IN_BUF at index `base` of its window (R67): the lanes the strobes select when idle;
nothing but WIB when busy, and not even that for an empty mask. -/
def writeWindow (store : Nat → Byte → State → State) (base : Nat) (strb : Strobe) (v : Word)
    (s : State) : State :=
  if isBusy s then (if strb = 0 then s else { s with wib := true })
  else
    storeLane store base strb v 3 (storeLane store base strb v 2
      (storeLane store base strb v 1 (storeLane store base strb v 0 s)))

/-- The command a written word stands for, in effect (R96, R265). A word whose reserved fields are not zero
is the command Illegal (R93, R268; log 11). -/
def runWord (w : Word) (s : State) : Host.Outcome State Fault Refusal :=
  match decode w with
  | .ok i => exec i s
  | .error _ => issued outcomeIllegal s

/-- The write action of the aligned, mapped location at offset `off` (R66 to R68). -/
def writeLocation (off : Nat) (strb : Strobe) (v : Word) (s : State) :
    Host.Outcome State Fault Refusal :=
  if off = 0x004 then .next (writeCtrl v s)
  else if off = 0x008 then runWord v s
  else if off = 0x00C then .next (writeStatus v s)
  else if off = 0x014 then .next (writeInLen v s)
  else if off < 0x020 then .next s
  else if off < 0x030 then .next (writeWindow storeKey (off - 0x020) strb v s)
  else if off < 0x040 then .next (writeWindow storeIv (off - 0x030) strb v s)
  else if off < 0x2000 then .next (writeWindow storeInBuf (off - 0x1000) strb v s)
  else .next s

/-- A control register takes full-word writes only (R66). -/
def partialControlWrite (off : Offset) (strb : Strobe) : Bool :=
  decide (off.toNat < 0x020) && strb != 0b1111#4

/-- `MemWrite(off, strb, v)` (R61). -/
def memWrite (off : Offset) (strb : Strobe) (v : Word) (s : State) :
    Host.Outcome State Fault Refusal :=
  if badOffset s off || partialControlWrite off strb then .next (answer (.written .error) s)
  else writeLocation off.toNat strb v (answer (.written .okay) s)

/-! ### Events -/

/-- What one event does to a core that is not in reset. Completion while IDLE is no step (R263); releasing a
released reset is nothing. -/
def serve (e : Event) (s : State) : Host.Outcome State Fault Refusal :=
  match e with
  | .read off => .next (memRead off s)
  | .write off strb v => memWrite off strb v s
  | .complete => .next (complete s)
  | .resetAssert => .next { s with inReset := true }
  | .resetRelease => .next s

/-- While `rst_n` is 0 the core answers nothing and steps nothing (R340, U20): the events up to the release,
less the host's transactions, which wait for it; none if it never comes (log 9). -/
def afterRelease : List Event → Option (List Event)
  | [] => none
  | .resetRelease :: r => some r
  | .resetAssert :: r => afterRelease r
  | .complete :: r => afterRelease r
  | .read off :: r => (afterRelease r).map (.read off :: ·)
  | .write off strb v :: r => (afterRelease r).map (.write off strb v :: ·)

/-- One step of the machine. In reset: the release, if it comes. Otherwise the next event; and when none is
left, the completion that is still due (R269, R270; log 6), or nothing. -/
def advance (s : State) : Host.Outcome State Fault Refusal :=
  if s.inReset then
    match afterRelease s.events with
    | some r => .next (resetState { s with events := r })
    | none => .next s
  else
    match s.events with
    | [] => .next (complete s)
    | e :: r => serve e { s with events := r }

/-- The state in which the core can accept a command: out of reset, and with the command in flight
completed (log 7). -/
def readyForCommand (s : State) : State := if s.inReset then resetState s else complete s

/-- Put the CMD write of a word before every other event of a core that is ready for it (R260; log 7). -/
def placeCommand (s : State) (nbits w : Nat) : State :=
  let t := readyForCommand s
  { t with events := .write 0x008#14 0b1111#4 (BitVec.ofNat 32 (w % 2 ^ nbits)) :: t.events }

end Sys2Proof.Machine
end

