-- ==== Sys2Proof/Machine/Step.lean ====
section
/-! DEFINITION. The step function, and how a command word is placed before it. -/

namespace Sys2Proof.Machine

/-- One step of the core (R82: a transaction, a completion or reset). -/
def step (s : State) : Host.Outcome State Fault Refusal := advance s

/-- `s` with the command word placed as the host's next transaction, a CMD write, on a core that is ready
for it (log 7). -/
def State.withFetchWord (s : State) (nbits w : Nat) : State := placeCommand s nbits w

end Sys2Proof.Machine
end

