-- ==== Sys2Proof/Machine/HostProgram.lean ====
section
/-! DEFINITION. Host programs and their pseudo-instructions (R98 to R100), as lists of the events the model
steps through. -/

namespace Sys2Proof.Machine

/-- A statement of a host program (R98). A value that names an earlier read is that read's value here. -/
inductive HostStmt where
  /-- `WR off, v`. -/
  | wr (off : Offset) (v : Word)
  /-- `WRB off, v, strb`. -/
  | wrb (off : Offset) (v : Word) (strb : Strobe)
  /-- `RD off -> name`. -/
  | rd (off : Offset)
  /-- `RD off == v`. -/
  | rdEq (off : Offset) (v : Word)
  deriving DecidableEq, Repr

/-- The transaction a statement makes (R98). -/
def hostEvent : HostStmt → Event
  | .wr off v => .write off 0b1111#4 v
  | .wrb off v strb => .write off strb v
  | .rd off => .read off
  | .rdEq off _ => .read off

/-- Whether an answer is the one a statement claims (R98): OKAY for WR and for a named read, the value for a
comparison. DESIGN CHOICE, log 18: a comparison also claims OKAY, and WRB claims nothing of its response; R98
says neither. -/
def hostAccepts : HostStmt → Answer → Bool
  | .wr _ _, .written r => r = .okay
  | .wrb _ _ _, .written _ => true
  | .rd _, .read _ r => r = .okay
  | .rdEq _ v, .read d r => d = v && r = .okay
  | _, _ => false

/-- A control register's or window's word offset, from a base and a word index (R99). -/
def wordOffset (base w : Nat) : Offset := BitVec.ofNat 14 (base + 4 * w)

/-- The word of key or IV bytes `[4w .. 4w+4)`, first byte in lane 0 (R62, R69, R99). -/
def quadWord (q : Quad) : Word := q.r3 ++ q.r2 ++ q.r1 ++ q.r0

/-- `CMD m` and `CMD m, bsz` (R99). -/
def hostCmd (i : Instr) : List HostStmt := [.wr 0x008#14 (encode i)]

/-- Load sixteen bytes into the window at `base` by four word writes. -/
def loadBlock (base : Nat) (b : Block) : List HostStmt :=
  [.wr (wordOffset base 0) (quadWord b.c0), .wr (wordOffset base 1) (quadWord b.c1),
   .wr (wordOffset base 2) (quadWord b.c2), .wr (wordOffset base 3) (quadWord b.c3)]

/-- `LDKEY k` (R99). -/
def ldKey (k : Block) : List HostStmt := loadBlock 0x020 k

/-- `LDIV iv` (R99). -/
def ldIv (v : Block) : List HostStmt := loadBlock 0x030 v

/-- The strobe mask with bit `i` set iff `4w + i < len` (R99). -/
def tailStrobe (len w : Nat) : Strobe :=
  BitVec.ofBool (4 * w + 3 < len) ++ BitVec.ofBool (4 * w + 2 < len) ++
    BitVec.ofBool (4 * w + 1 < len) ++ BitVec.ofBool (4 * w < len)

/-- `LDBUF d` (R99): the words of `d`, then IN_LEN. -/
def ldBuf (d : List Byte) : List HostStmt :=
  (List.range ((d.length + 3) / 4)).map
      (fun w => .wrb (wordOffset 0x1000 w) (wordFrom (byteAt d) (4 * w)) (tailStrobe d.length w)) ++
    [.wr 0x014#14 (BitVec.ofNat 32 d.length)]

/-- `RDBUF n` (R99): the reads. -/
def rdBuf (n : Nat) : List HostStmt :=
  (List.range ((n + 3) / 4)).map (fun w => .rd (wordOffset 0x2000 w))

/-- `RDBUF n -> o` (R99): the bytes `o`, from the words read. -/
def rdBufBytes (n : Nat) (words : List Word) : List Byte :=
  (List.range n).map (fun i => lane (words.getD (i / 4) 0x00000000#32) (i % 4))

/-- `CLRDONE` (R99). -/
def clrDone : List HostStmt := [.wr 0x00C#14 0x00000002#32]

/-- `CLRWIB` (R99). -/
def clrWib : List HostStmt := [.wr 0x00C#14 0x00000010#32]

/-- The events of a stretch of host program that no completion falls into. -/
def hostEvents (p : List HostStmt) : List Event := p.map hostEvent

/-- `WAIT` (R99): `polls` reads of STATUS that see DONE = 0, the completion, and the read that sees DONE = 1.
The trip count is free (R270). -/
def hostWait (polls : Nat) : List Event :=
  List.replicate polls (.read 0x00C#14) ++ [.complete, .read 0x00C#14]

/-- The canonical sequence of one operation (R100), steps 2 to 4: load, issue, wait, read ERRCODE and
OUT_LEN, then the result bytes. -/
def hostOperation (iv : Block) (d : List Byte) (i : Instr) (polls n : Nat) : List Event :=
  hostEvents (ldIv iv ++ ldBuf d ++ hostCmd i) ++ hostWait polls ++
    hostEvents ([.rd 0x010#14, .rd 0x018#14] ++ rdBuf n)

/-- The canonical key setup (R100), step 1: LDKEY, KEY_EXPAND, WAIT. -/
def hostKeySetup (k : Block) (polls : Nat) : List Event :=
  hostEvents (ldKey k ++ hostCmd (.keyExpand 0)) ++ hostWait polls

end Sys2Proof.Machine
end

