-- ==== Sys2Proof/Safety.lean ====
section
/-! DEFINITION. The terms the claims use: frames of the command lifecycle, what a command does from issue to
completion, the error conditions of R300, the machine's invariants, and reference forms of the field
arithmetic. -/

namespace Sys2Proof.Machine

/-! ### Frames -/

/-- `t` differs from `s` at most in what the lifecycle itself moves: DONE, CODE, PHASE and PEND, and the
model's draws. -/
structure SameButLifecycle (s t : State) : Prop where
  ie : t.ie = s.ie
  wib : t.wib = s.wib
  inLen : t.inLen = s.inLen
  outLen : t.outLen = s.outLen
  bufBytes : t.bufBytes = s.bufBytes
  key : t.key = s.key
  iv : t.iv = s.iv
  inBuf : t.inBuf = s.inBuf
  outBuf : t.outBuf = s.outBuf
  rk : t.rk = s.rk
  keyv : t.keyv = s.keyv
  inReset : t.inReset = s.inReset
  events : t.events = s.events
  answers : t.answers = s.answers

/-- As `SameButLifecycle`, but OUT_BUF and OUT_LEN may differ too. -/
structure SameButOutput (s t : State) : Prop where
  ie : t.ie = s.ie
  wib : t.wib = s.wib
  inLen : t.inLen = s.inLen
  bufBytes : t.bufBytes = s.bufBytes
  key : t.key = s.key
  iv : t.iv = s.iv
  inBuf : t.inBuf = s.inBuf
  rk : t.rk = s.rk
  keyv : t.keyv = s.keyv
  inReset : t.inReset = s.inReset
  events : t.events = s.events
  answers : t.answers = s.answers

/-- As `SameButLifecycle`, but RK and KEYV may differ too. -/
structure SameButSchedule (s t : State) : Prop where
  ie : t.ie = s.ie
  wib : t.wib = s.wib
  inLen : t.inLen = s.inLen
  outLen : t.outLen = s.outLen
  bufBytes : t.bufBytes = s.bufBytes
  key : t.key = s.key
  iv : t.iv = s.iv
  inBuf : t.inBuf = s.inBuf
  outBuf : t.outBuf = s.outBuf
  inReset : t.inReset = s.inReset
  events : t.events = s.events
  answers : t.answers = s.answers

/-- The core is BUSY after an issue: DONE and CODE are cleared, and nothing else has changed (R260). -/
structure Issued (s t : State) : Prop where
  busy : isBusy t = true
  done : t.done = false
  errcode : t.errcode = .none
  same : SameButLifecycle s t

/-- The core has completed with a code: IDLE and DONE (R263, R302). -/
structure Completed (code : ErrCode) (u : State) : Prop where
  idle : u.phase = .idle
  done : u.done = true
  errcode : u.errcode = code

/-! ### What a command does, from issue to completion -/

/-- The command `i`, written on `s`, is issued and completes with the failure `code`: nothing but CODE, DONE
and PHASE has changed (R304). -/
def CommandFails (i : Instr) (s : State) (code : ErrCode) : Prop :=
  ∃ t, exec i s = .next t ∧ Issued s t ∧ Completed code (complete t) ∧
    SameButLifecycle s (complete t)

/-- The command `i`, written on `s`, is issued and completes with success, changing nothing else. -/
def CommandSucceeds (i : Instr) (s : State) : Prop :=
  ∃ t, exec i s = .next t ∧ Issued s t ∧ Completed .none (complete t) ∧
    SameButLifecycle s (complete t)

/-- The command `i`, written on `s`, is issued and completes with the output `l`: OUT_LEN is its length, and
OUT_BUF holds it from index 0 on (R264). The bytes at and beyond OUT_LEN are not spoken of (R349). -/
def CommandOutputs (i : Instr) (s : State) (l : List Byte) : Prop :=
  ∃ t, exec i s = .next t ∧ Issued s t ∧ Completed .none (complete t) ∧
    (complete t).outLen.toNat = l.length ∧
    (complete t).outBuf.bytes l.length = l ∧
    SameButOutput s (complete t)

/-- A word with this OP and its reserved fields zero is the command `mk`, with the word's BSZ (R90, R94). -/
def HasOpcode (op : BitVec 4) (mk : Nat → Instr) : Prop :=
  ∀ w : Word, opField w = op → res0Field w = 0 → res1Field w = 0 →
    decode w = .ok (mk (bszField w).toNat)

/-! ### The commands' inputs as the rules name them -/

/-- `n = IN_LEN` as a natural number. -/
def lengthIn (s : State) : Nat := s.inLen.toNat

/-- `D = IN_BUF[0..n)`. -/
def dataIn (s : State) : List Byte := s.inBuf.bytes s.inLen.toNat

/-- `IN_BUF[0..16)`. -/
def blockIn (s : State) : Block := blockFrom s.inBuf.read 0

/-- `RK[0..176)`. -/
def rkIn (s : State) : List Byte := s.rk.bytes 176

/-- The last byte of a sequence, as a natural number: the claimed pad length (R241). -/
def claimedPad (d : List Byte) : Nat := (byteAt d (d.length - 1)).toNat

/-- `d` ends in a well-formed pad for block size `n` (R241, after its first two checks). -/
def GoodPad (d : List Byte) (n : Nat) : Prop :=
  1 ≤ claimedPad d ∧ claimedPad d ≤ n ∧ claimedPad d ≤ d.length ∧
    ∀ i, d.length - claimedPad d ≤ i → i < d.length → (byteAt d i).toNat = claimedPad d

/-- The byte a window holds at offset `a`, for the windows a host may store to: KEY, IV and IN_BUF (R64). KEY's
bytes are in the state although no read returns them. -/
def inputByte (s : State) (a : Nat) : Byte :=
  if a < 0x030 then blockByte s.key (a - 0x020)
  else if a < 0x040 then blockByte s.iv (a - 0x030)
  else s.inBuf.read (a - 0x1000)

/-- The offset lies in a window a host may store to (R64). -/
def InInputWindow (s : State) (a : Nat) : Prop :=
  (0x020 ≤ a ∧ a < 0x040) ∨ (0x1000 ≤ a ∧ a < 0x1000 + s.bufBytes)

/-- `t` differs from `s` at most in KEY, IV and IN_BUF, and in the record of answers. -/
structure SameButWindows (s t : State) : Prop where
  ie : t.ie = s.ie
  done : t.done = s.done
  wib : t.wib = s.wib
  errcode : t.errcode = s.errcode
  inLen : t.inLen = s.inLen
  outLen : t.outLen = s.outLen
  bufBytes : t.bufBytes = s.bufBytes
  outBuf : t.outBuf = s.outBuf
  rk : t.rk = s.rk
  keyv : t.keyv = s.keyv
  phase : t.phase = s.phase
  inReset : t.inReset = s.inReset
  datapath : t.datapath = s.datapath
  draws : t.draws = s.draws
  events : t.events = s.events

/-- `s` with one more event before its own. -/
def before (e : Event) (s : State) : State := { s with events := e :: s.events }

/-! ### The error conditions of R300, each on its own -/

/-- The commands that need a schedule (R300, code 2). -/
def needsKey : Instr → Bool
  | .encBlock _ => true
  | .decBlock _ => true
  | .cbcEnc _ => true
  | .cbcDec _ => true
  | .cbcEncNoPad _ => true
  | .cbcDecNoPad _ => true
  | .nop _ => false
  | .keyExpand _ => false
  | .pad _ => false
  | .unpad _ => false
  | .zeroize _ => false
  | .reservedB _ => false
  | .reservedC _ => false
  | .reservedD _ => false
  | .reservedE _ => false
  | .reservedF _ => false

/-- Error condition `c` of R300 holds for command `i` in state `s`, whether or not a lower one does. -/
def errorHolds (i : Instr) (s : State) (c : ErrCode) : Prop :=
  match c with
  | .none => False
  | .illegalCmd =>
    i = .reservedB i.bsz ∨ i = .reservedC i.bsz ∨ i = .reservedD i.bsz ∨ i = .reservedE i.bsz ∨
      i = .reservedF i.bsz
  | .keyNotReady => needsKey i = true ∧ s.keyv = false
  | .lengthRange =>
    (i = .cbcEnc i.bsz ∨ i = .cbcDec i.bsz ∨ i = .cbcEncNoPad i.bsz ∨ i = .cbcDecNoPad i.bsz ∨
      i = .pad i.bsz ∨ i = .unpad i.bsz) ∧ s.bufBytes < lengthIn s
  | .invalidBlockSize => (i = .pad i.bsz ∨ i = .unpad i.bsz) ∧ (i.bsz = 0 ∨ 255 < i.bsz)
  | .invalidBufferLength =>
    (i = .cbcDec i.bsz ∨ i = .cbcEncNoPad i.bsz ∨ i = .cbcDecNoPad i.bsz) ∧
      (lengthIn s = 0 ∨ lengthIn s % 16 ≠ 0)
  | .invalidPadding =>
    (i = .cbcDec i.bsz ∧ ¬ GoodPad (cbcDecryptBlocks (rkIn s) s.iv (dataIn s)) 16) ∨
      (i = .unpad i.bsz ∧
        (lengthIn s = 0 ∨ lengthIn s % i.bsz ≠ 0 ∨ ¬ GoodPad (dataIn s) i.bsz))
  | .outputOverflow =>
    (i = .cbcEnc i.bsz ∧ s.bufBytes < 16 * (lengthIn s / 16 + 1)) ∨
      (i = .pad i.bsz ∧ s.bufBytes < lengthIn s + (i.bsz - lengthIn s % i.bsz))

/-! ### Invariants -/

/-- What a pending outcome may hold: output that fits the buffer (R32, R72), a schedule of 176 bytes (R37). -/
def OutcomeFits (bufBytes : Nat) : CmdOutcome → Prop
  | .fail _ => True
  | .ok r => (∀ l, r.out = some l → l.length ≤ bufBytes) ∧ ∀ l, r.rk = some l → l.length = 176

/-- The RAMs keep their canonical form and their bounds, OUT_LEN is at most BUF_BYTES (R32), and so is the
output that is pending. -/
structure MemoryInv (s : State) : Prop where
  legal : Config.legalBufBytes s.bufBytes
  inBufWf : s.inBuf.wf
  outBufWf : s.outBuf.wf
  rkWf : s.rk.wf
  inBufBound : ∀ c ∈ s.inBuf.cells, c.1 < s.bufBytes
  outBufBound : ∀ c ∈ s.outBuf.cells, c.1 < s.bufBytes
  rkBound : ∀ c ∈ s.rk.cells, c.1 < 176
  outLen : s.outLen.toNat ≤ s.bufBytes
  pend : ∀ o, s.phase = .busy o → OutcomeFits s.bufBytes o

/-- While BUSY, DONE is 0 (R26) and ERRCODE reads 0 (R28, R346), and a pending failure has a code of its own
(R300). -/
structure ControlInv (s : State) : Prop where
  done : isBusy s = true → s.done = false
  errcode : isBusy s = true → s.errcode = .none
  pend : ∀ c, s.phase = .busy (.fail c) → c ≠ .none

/-- KEYV is 1 only when RK holds the schedule of some key (R36), and a pending schedule is one. -/
structure ScheduleInv (s : State) : Prop where
  loaded : s.keyv = true → ∃ k, rkIn s = keyExpansion k
  pend : ∀ r l, s.phase = .busy (.ok r) → r.rk = some l → ∃ k, l = keyExpansion k

/-- A fill's draw has been made. -/
def FillDrawn (n : Nat) : Fill → Prop
  | .zero => True
  | .draw k => k < n

/-- Every free value in the state has been drawn already, so the next draw is a fresh one (R13, D38). -/
structure DrawInv (s : State) : Prop where
  inBuf : FillDrawn s.draws s.inBuf.fill
  outBuf : FillDrawn s.draws s.outBuf.fill
  rk : FillDrawn s.draws s.rk.fill
  datapath : s.datapath < s.draws

/-! ### Reference forms of the field arithmetic -/

/-- The product of two polynomials over GF(2), before reduction (R122). -/
def polyProduct (a b : Byte) : BitVec 16 :=
  (List.range 8).foldl (fun p i => if b.getLsbD i then p ^^^ (a.setWidth 16 <<< i) else p) 0

/-- Reduction modulo x^8+x^4+x^3+x+1: from the top bit down, subtract a multiple of 0x11B (R15, R122). -/
def polyReduce (p : BitVec 16) : Byte :=
  ([7, 6, 5, 4, 3, 2, 1, 0].foldl
    (fun q i => if q.getLsbD (8 + i) then q ^^^ (0x11B#16 <<< i) else q) p).setWidth 8

/-- The affine map of the S-box's construction (R125). -/
def sboxAffine (b : Byte) : Byte :=
  b ^^^ b.rotateLeft 1 ^^^ b.rotateLeft 2 ^^^ b.rotateLeft 3 ^^^ b.rotateLeft 4 ^^^ 0x63#8

/-- One column of MixColumns as the matrix product (R165). -/
def mixColumnMatrix (a : Quad) : Quad :=
  ⟨gfMul 0x02#8 a.r0 ^^^ gfMul 0x03#8 a.r1 ^^^ a.r2 ^^^ a.r3,
   a.r0 ^^^ gfMul 0x02#8 a.r1 ^^^ gfMul 0x03#8 a.r2 ^^^ a.r3,
   a.r0 ^^^ a.r1 ^^^ gfMul 0x02#8 a.r2 ^^^ gfMul 0x03#8 a.r3,
   gfMul 0x03#8 a.r0 ^^^ a.r1 ^^^ a.r2 ^^^ gfMul 0x02#8 a.r3⟩

/-- Word `i` of a schedule of bytes (R140, R143). -/
def wordOfSchedule (rk : List Byte) (i : Nat) : Quad := quadFrom (byteAt rk) (4 * i)

end Sys2Proof.Machine
end

