-- ==== Sys2Proof/Certificates/Slice0/Obligations.lean ====
section
/-! DEFINITION. The statements for the provers. Each docstring names the rule of spec/ it formalises. -/

open Sys2Proof Sys2Proof.Machine

/-! ### Encoding -/

/-- R90, R94, R96: the decoder and the encoder are inverse to each other, so no bit of a command's word is lost:
decoding the word of a well-formed command gives it back, with every block size the field admits, and a word
that decodes to a command is that command's word. -/
def Obligations.DecodeAndEncodeAgree : Prop :=
  (∀ i : Instr, i.WellFormed → decode (encode i) = .ok i) ∧
  ∀ (w : Word) (i : Instr), decode w = .ok i → i.WellFormed ∧ encode i = w

/-- R94, R99 and the command words of 95_test_vectors.md V2.8, read by the decoder. -/
def Obligations.WrittenOutWordsDecode : Prop :=
  decode 0x00000000#32 = .ok (.nop 0) ∧ decode 0x00000001#32 = .ok (.keyExpand 0) ∧
  decode 0x00000002#32 = .ok (.encBlock 0) ∧ decode 0x00000003#32 = .ok (.decBlock 0) ∧
  decode 0x00000004#32 = .ok (.cbcEnc 0) ∧ decode 0x00000005#32 = .ok (.cbcDec 0) ∧
  decode 0x00000006#32 = .ok (.cbcEncNoPad 0) ∧ decode 0x00000007#32 = .ok (.cbcDecNoPad 0) ∧
  decode 0x00001008#32 = .ok (.pad 16) ∧ decode 0x00000809#32 = .ok (.unpad 8) ∧
  decode 0x0000000A#32 = .ok (.zeroize 0) ∧ decode 0x0000000B#32 = .ok (.reservedB 0) ∧
  decode 0x0000000F#32 = .ok (.reservedF 0) ∧ decode 0x00001001#32 = .ok (.keyExpand 16) ∧
  decode 0x00000012#32 = .error .res0NotZero ∧ decode 0x01000001#32 = .error .res1NotZero

/-- R92: BSZ is the field `w[23:8]`, not scaled; PAD and UNPAD refuse 0 and everything above 255; every other
command behaves the same whatever BSZ is. -/
def Obligations.BlockSizeFieldAndItsUse : Prop :=
  (∀ (w : Word) (i : Instr), decode w = .ok i → i.bsz = w.toNat / 256 % 65536) ∧
  (∀ (s : State) (b : Nat), s.phase = .idle → lengthIn s ≤ s.bufBytes → b = 0 ∨ 255 < b →
    CommandFails (.pad b) s .invalidBlockSize ∧ CommandFails (.unpad b) s .invalidBlockSize) ∧
  (∀ (s : State) (b c : Nat),
    exec (.nop b) s = exec (.nop c) s ∧ exec (.keyExpand b) s = exec (.keyExpand c) s ∧
    exec (.encBlock b) s = exec (.encBlock c) s ∧ exec (.decBlock b) s = exec (.decBlock c) s ∧
    exec (.cbcEnc b) s = exec (.cbcEnc c) s ∧ exec (.cbcDec b) s = exec (.cbcDec c) s ∧
    exec (.cbcEncNoPad b) s = exec (.cbcEncNoPad c) s ∧
    exec (.cbcDecNoPad b) s = exec (.cbcDecNoPad c) s ∧
    exec (.zeroize b) s = exec (.zeroize c) s ∧ exec (.reservedB b) s = exec (.reservedB c) s ∧
    exec (.reservedC b) s = exec (.reservedC c) s ∧ exec (.reservedD b) s = exec (.reservedD c) s ∧
    exec (.reservedE b) s = exec (.reservedE c) s ∧ exec (.reservedF b) s = exec (.reservedF c) s)

/-! ### The step -/

/-- R260, R265, R66: when the host's next transaction is the CMD write of a word that decodes to `i`, the step
is `exec i` on the state with that event taken and the OKAY answer recorded. -/
def Obligations.StepRunsTheWrittenCommand : Prop :=
  ∀ (s : State) (w : Word) (i : Instr), s.inReset = false → Config.legalBufBytes s.bufBytes →
    decode w = .ok i →
    step (before (.write 0x008#14 0b1111#4 w) s) =
      exec i { s with answers := .written .okay :: s.answers }

/-- R306: the core has no trap: every step of every state answers a next state. -/
def Obligations.EveryStepAnswersANextState : Prop :=
  ∀ s : State, ∃ t, step s = .next t

/-- R262: whatever word is written to CMD while a command is in flight, the response is OKAY, the word is
dropped and only WIB is set; PEND is unchanged, so nothing is queued or restarted. -/
def Obligations.BusyCoreDropsACommand : Prop :=
  ∀ (s : State) (o : CmdOutcome), s.phase = .busy o →
    (∀ i : Instr, exec i s = .next { s with wib := true }) ∧
    ∀ w : Word, s.inReset = false → Config.legalBufBytes s.bufBytes →
      step (before (.write 0x008#14 0b1111#4 w) s) =
        .next { s with wib := true, answers := .written .okay :: s.answers }

/-- R270, by the model's choice of log 6 (with no event left the completion comes): a command in flight completes
after finitely many steps, if no reset comes: the machine reaches a
state with the same command in flight whose next step completes it. -/
def Obligations.CommandInFlightCompletes : Prop :=
  ∀ (s : State) (o : CmdOutcome), s.inReset = false → s.phase = .busy o → .resetAssert ∉ s.events →
    ∃ k t u, k ≤ s.events.length ∧ Sys2Proof.core.run k s = .next t ∧ t.phase = .busy o ∧
      step t = .next u ∧ u.phase = .idle ∧ u.done = true

/-! ### The controller's commands -/

/-- R266: NOP completes with success and changes nothing but DONE and CODE; with IE set it raises irq. -/
def Obligations.NopOnlyCompletes : Prop :=
  HasOpcode 0x0 .nop ∧
  ∀ (s : State) (b : Nat), s.phase = .idle →
    CommandSucceeds (.nop b) s ∧
    ∃ t, exec (.nop b) s = .next t ∧
      statusWord (complete t) =
        0x00000002#32 ||| (if s.keyv then 0x00000008#32 else 0) ||| (if s.wib then 0x00000010#32 else 0) ∧
      (s.ie = true → s.inReset = false → irq (complete t) = true)

/-- R267: ZEROIZE clears KEY, IV, IN_LEN, OUT_LEN, IN_BUF, OUT_BUF, RK and KEYV; CTRL and WIB stay. -/
def Obligations.ZeroizeClearsTheCore : Prop :=
  HasOpcode 0xA .zeroize ∧
  ∀ (s : State) (b : Nat), s.phase = .idle →
    ∃ t, exec (.zeroize b) s = .next t ∧ Issued s t ∧ Completed .none (complete t) ∧
      (∀ i, blockByte (complete t).key i = 0 ∧ blockByte (complete t).iv i = 0 ∧
        (complete t).inBuf.read i = 0 ∧ (complete t).outBuf.read i = 0 ∧ (complete t).rk.read i = 0) ∧
      (complete t).inLen = 0 ∧ (complete t).outLen = 0 ∧ (complete t).keyv = false ∧
      (complete t).ie = s.ie ∧ (complete t).wib = s.wib ∧ (complete t).bufBytes = s.bufBytes ∧
      (complete t).inReset = s.inReset ∧ (complete t).events = s.events ∧
      (complete t).answers = s.answers

/-- R268, R95, R93: the reserved opcodes, and exactly the words whose reserved fields are not zero beside them,
complete with ILLEGAL_CMD (code 1) like any other command and change nothing else. -/
def Obligations.ReservedCommandsAreIllegal : Prop :=
  HasOpcode 0xB .reservedB ∧ HasOpcode 0xC .reservedC ∧ HasOpcode 0xD .reservedD ∧
  HasOpcode 0xE .reservedE ∧ HasOpcode 0xF .reservedF ∧ errNumber .illegalCmd = 1 ∧
  (∀ w : Word, (∃ e, decode w = .error e) ↔ w.extractLsb' 4 4 ≠ 0 ∨ w.extractLsb' 24 8 ≠ 0) ∧
  (∀ (s : State) (b : Nat), s.phase = .idle →
    CommandFails (.reservedB b) s .illegalCmd ∧ CommandFails (.reservedC b) s .illegalCmd ∧
    CommandFails (.reservedD b) s .illegalCmd ∧ CommandFails (.reservedE b) s .illegalCmd ∧
    CommandFails (.reservedF b) s .illegalCmd) ∧
  ∀ (s : State) (w : Word), s.phase = .idle → res0Field w ≠ 0 ∨ res1Field w ≠ 0 →
    ∃ t, runWord w s = .next t ∧ Issued s t ∧ Completed .illegalCmd (complete t) ∧
      SameButLifecycle s (complete t)

/-! ### KEY_EXPAND and the block commands -/

/-- R145: KEY_EXPAND cannot fail; RK takes the schedule of KEY and KEYV is set; nothing else changes. -/
def Obligations.KeyExpandLoadsTheSchedule : Prop :=
  HasOpcode 0x1 .keyExpand ∧
  ∀ (s : State) (b : Nat), s.phase = .idle →
    ∃ t, exec (.keyExpand b) s = .next t ∧ Issued s t ∧ Completed .none (complete t) ∧
      rkIn (complete t) = keyExpansion s.key ∧ (complete t).keyv = true ∧
      SameButSchedule s (complete t)

/-- R194: ENC_BLOCK fails with KEY_NOT_READY without a schedule, and otherwise outputs the encryption of
IN_BUF[0..16), whatever IN_LEN, IV and BSZ are. -/
def Obligations.EncBlockOutputsTheCiphertext : Prop :=
  HasOpcode 0x2 .encBlock ∧
  ∀ (s : State) (b : Nat), s.phase = .idle →
    (s.keyv = false → CommandFails (.encBlock b) s .keyNotReady) ∧
    (s.keyv = true →
      CommandOutputs (.encBlock b) s (blockBytes (encryptBlock (rkIn s) (blockIn s))))

/-- R195: DEC_BLOCK fails with KEY_NOT_READY without a schedule, and otherwise outputs the decryption of
IN_BUF[0..16). -/
def Obligations.DecBlockOutputsThePlaintext : Prop :=
  HasOpcode 0x3 .decBlock ∧
  ∀ (s : State) (b : Nat), s.phase = .idle →
    (s.keyv = false → CommandFails (.decBlock b) s .keyNotReady) ∧
    (s.keyv = true →
      CommandOutputs (.decBlock b) s (blockBytes (decryptBlock (rkIn s) (blockIn s))))

/-! ### CBC -/

/-- R212: CBC_ENC, its three errors in order, and its output: the chain over IN_BUF[0..n) with its PKCS#7 pad,
of length `16 (n div 16 + 1)`. That, with a legal BUF_BYTES, it overflows exactly when IN_LEN = BUF_BYTES is the
sentence R212 marks as derived, from R240. -/
def Obligations.CbcEncPadsAndChains : Prop :=
  HasOpcode 0x4 .cbcEnc ∧
  ∀ (s : State) (b : Nat), s.phase = .idle → Config.legalBufBytes s.bufBytes →
    (s.keyv = false → CommandFails (.cbcEnc b) s .keyNotReady) ∧
    (s.keyv = true → s.bufBytes < lengthIn s → CommandFails (.cbcEnc b) s .lengthRange) ∧
    (s.keyv = true → lengthIn s = s.bufBytes → CommandFails (.cbcEnc b) s .outputOverflow) ∧
    (s.keyv = true → lengthIn s < s.bufBytes →
      let p := 16 - lengthIn s % 16
      let out := cbcEncryptBlocks (rkIn s) s.iv (dataIn s ++ List.replicate p (BitVec.ofNat 8 p))
      out.length = 16 * (lengthIn s / 16 + 1) ∧ CommandOutputs (.cbcEnc b) s out)

/-- R213, R218: CBC_DEC, its four errors in order, and its output: the decrypted chain less its pad. A bad pad
changes neither OUT_BUF nor OUT_LEN. -/
def Obligations.CbcDecChainsAndUnpads : Prop :=
  HasOpcode 0x5 .cbcDec ∧
  ∀ (s : State) (b : Nat), s.phase = .idle →
    let q := cbcDecryptBlocks (rkIn s) s.iv (dataIn s)
    (s.keyv = false → CommandFails (.cbcDec b) s .keyNotReady) ∧
    (s.keyv = true → s.bufBytes < lengthIn s → CommandFails (.cbcDec b) s .lengthRange) ∧
    (s.keyv = true → lengthIn s ≤ s.bufBytes → lengthIn s = 0 ∨ lengthIn s % 16 ≠ 0 →
      CommandFails (.cbcDec b) s .invalidBufferLength) ∧
    (s.keyv = true → lengthIn s ≤ s.bufBytes → 0 < lengthIn s → lengthIn s % 16 = 0 →
      (¬ GoodPad q 16 → CommandFails (.cbcDec b) s .invalidPadding) ∧
      (GoodPad q 16 → CommandOutputs (.cbcDec b) s (q.take (lengthIn s - claimedPad q))))

/-- R214: CBC_ENC_NOPAD, its three errors in order, and its output of exactly IN_LEN bytes. -/
def Obligations.CbcEncNoPadChains : Prop :=
  HasOpcode 0x6 .cbcEncNoPad ∧
  ∀ (s : State) (b : Nat), s.phase = .idle →
    (s.keyv = false → CommandFails (.cbcEncNoPad b) s .keyNotReady) ∧
    (s.keyv = true → s.bufBytes < lengthIn s → CommandFails (.cbcEncNoPad b) s .lengthRange) ∧
    (s.keyv = true → lengthIn s ≤ s.bufBytes → lengthIn s = 0 ∨ lengthIn s % 16 ≠ 0 →
      CommandFails (.cbcEncNoPad b) s .invalidBufferLength) ∧
    (s.keyv = true → lengthIn s ≤ s.bufBytes → 0 < lengthIn s → lengthIn s % 16 = 0 →
      (cbcEncryptBlocks (rkIn s) s.iv (dataIn s)).length = lengthIn s ∧
      CommandOutputs (.cbcEncNoPad b) s (cbcEncryptBlocks (rkIn s) s.iv (dataIn s)))

/-- R215: CBC_DEC_NOPAD, its three errors in order, and its output of exactly IN_LEN bytes, with no padding
check. -/
def Obligations.CbcDecNoPadChains : Prop :=
  HasOpcode 0x7 .cbcDecNoPad ∧
  ∀ (s : State) (b : Nat), s.phase = .idle →
    (s.keyv = false → CommandFails (.cbcDecNoPad b) s .keyNotReady) ∧
    (s.keyv = true → s.bufBytes < lengthIn s → CommandFails (.cbcDecNoPad b) s .lengthRange) ∧
    (s.keyv = true → lengthIn s ≤ s.bufBytes → lengthIn s = 0 ∨ lengthIn s % 16 ≠ 0 →
      CommandFails (.cbcDecNoPad b) s .invalidBufferLength) ∧
    (s.keyv = true → lengthIn s ≤ s.bufBytes → 0 < lengthIn s → lengthIn s % 16 = 0 →
      (cbcDecryptBlocks (rkIn s) s.iv (dataIn s)).length = lengthIn s ∧
      CommandOutputs (.cbcDecNoPad b) s (cbcDecryptBlocks (rkIn s) s.iv (dataIn s)))

/-! ### PAD and UNPAD -/

/-- R244: PAD, its three errors in order, and its output: IN_BUF[0..n) and the pad. It needs no key. -/
def Obligations.PadAppendsThePad : Prop :=
  HasOpcode 0x8 .pad ∧
  ∀ (s : State) (b : Nat), s.phase = .idle → Config.legalBufBytes s.bufBytes →
    let p := b - lengthIn s % b
    (s.bufBytes < lengthIn s → CommandFails (.pad b) s .lengthRange) ∧
    (lengthIn s ≤ s.bufBytes → b = 0 ∨ 255 < b → CommandFails (.pad b) s .invalidBlockSize) ∧
    (lengthIn s ≤ s.bufBytes → 1 ≤ b → b ≤ 255 → s.bufBytes < lengthIn s + p →
      CommandFails (.pad b) s .outputOverflow) ∧
    (1 ≤ b → b ≤ 255 → lengthIn s + p ≤ s.bufBytes →
      CommandOutputs (.pad b) s (dataIn s ++ List.replicate p (BitVec.ofNat 8 p)))

/-- R245: UNPAD, its three errors in order, and its output: IN_BUF[0..n) less its pad. It needs no key. -/
def Obligations.UnpadStripsThePad : Prop :=
  HasOpcode 0x9 .unpad ∧
  ∀ (s : State) (b : Nat), s.phase = .idle →
    (s.bufBytes < lengthIn s → CommandFails (.unpad b) s .lengthRange) ∧
    (lengthIn s ≤ s.bufBytes → b = 0 ∨ 255 < b → CommandFails (.unpad b) s .invalidBlockSize) ∧
    (lengthIn s ≤ s.bufBytes → 1 ≤ b → b ≤ 255 →
      lengthIn s = 0 ∨ lengthIn s % b ≠ 0 ∨ ¬ GoodPad (dataIn s) b →
      CommandFails (.unpad b) s .invalidPadding) ∧
    (lengthIn s ≤ s.bufBytes → 1 ≤ b → b ≤ 255 → 0 < lengthIn s → lengthIn s % b = 0 →
      GoodPad (dataIn s) b →
      CommandOutputs (.unpad b) s ((dataIn s).take (lengthIn s - claimedPad (dataIn s))))

/-! ### Errors -/

/-- R303: a command completes with success when no error condition of R300 holds for it, and otherwise with
the lowest-numbered code among the conditions that hold; a word that decodes to no command, with the lowest
code of all. -/
def Obligations.LowestErrorCodeIsReported : Prop :=
  ∀ (i : Instr) (s : State), s.phase = .idle →
    ∃ t code, exec i s = .next t ∧ Completed code (complete t) ∧
      ((code = .none ∧ ∀ c, ¬ errorHolds i s c) ∨
       (errorHolds i s code ∧
        ∀ c, errorHolds i s c → (errNumber code).toNat ≤ (errNumber c).toNat)) ∧
      ∀ (w : Word) (e : DecodeReject), decode w = .error e →
        ∃ u, runWord w s = .next u ∧ Completed .illegalCmd (complete u)

/-- R304: whichever command fails, only CODE, DONE and PHASE have changed; said of the commands and of the words
written to CMD. -/
def Obligations.FailureHasNoSideEffect : Prop :=
  ∀ s : State, s.phase = .idle →
    (∀ i : Instr, ∃ t, exec i s = .next t ∧
      ((complete t).errcode ≠ .none → SameButLifecycle s (complete t) ∧ (complete t).done = true ∧
        (complete t).phase = .idle)) ∧
    ∀ w : Word, ∃ t, runWord w s = .next t ∧
      ((complete t).errcode ≠ .none → SameButLifecycle s (complete t) ∧ (complete t).done = true ∧
        (complete t).phase = .idle)

/-- R300 and R28: the numbers of the codes, and what ERRCODE and STATUS.ERR read. -/
def Obligations.ErrorCodesAndTheirNumbers : Prop :=
  errNumber .none = 0 ∧ errNumber .illegalCmd = 1 ∧ errNumber .keyNotReady = 2 ∧
  errNumber .lengthRange = 3 ∧ errNumber .invalidBlockSize = 4 ∧ errNumber .invalidBufferLength = 5 ∧
  errNumber .invalidPadding = 6 ∧ errNumber .outputOverflow = 7 ∧
  ∀ s : State, errcodeWord s = (errNumber s.errcode).setWidth 32 ∧
    (errFlag s = true ↔ s.errcode ≠ .none)

/-- R94 (column "result"): only KEY_EXPAND has a schedule as its result, only ZEROIZE clears the core, and
only the output commands have output. -/
def Obligations.ResultsBelongToTheirCommands : Prop :=
  ∀ (i : Instr) (s t : State) (r : CmdResult), s.phase = .idle → exec i s = .next t →
    t.phase = .busy (.ok r) →
    (r.rk ≠ none → i = .keyExpand i.bsz) ∧
    (r.zeroize = true → i = .zeroize i.bsz) ∧
    (r.out ≠ none → i = .encBlock i.bsz ∨ i = .decBlock i.bsz ∨ i = .cbcEnc i.bsz ∨
      i = .cbcDec i.bsz ∨ i = .cbcEncNoPad i.bsz ∨ i = .cbcDecNoPad i.bsz ∨ i = .pad i.bsz ∨
      i = .unpad i.bsz)

/-! ### The functions -/

/-- The two S-box tables are inverse to each other: INV_SBOX after SBOX by R126's law, and SBOX after INV_SBOX, the
sentence R126 marks as derived, since SBOX is a bijection. -/
def Obligations.SboxTablesAreInverse : Prop :=
  (∀ x : Byte, invSbox (sbox x) = x) ∧ ∀ y : Byte, sbox (invSbox y) = y

/-- Every entry of the S-box table is the affine map of the field inverse (of 0x00 for 0x00): the construction
that R125 gives as a check, from general knowledge; the table of R124 is normative. -/
def Obligations.SboxIsTheAffineInverse : Prop :=
  ∀ x : Byte, ∃ y : Byte, ((x = 0 ∧ y = 0) ∨ gfMul x y = 0x01#8) ∧ sbox x = sboxAffine y

/-- The laws of the field, which R123 marks as derived. -/
def Obligations.FieldLaws : Prop :=
  (∀ a b : Byte, gfMul a b = gfMul b a) ∧
  (∀ a b c : Byte, gfMul (gfMul a b) c = gfMul a (gfMul b c)) ∧
  (∀ a b c : Byte, gfMul a (b ^^^ c) = gfMul a b ^^^ gfMul a c) ∧
  (∀ a : Byte, gfMul 0x01#8 a = a) ∧
  (∀ a : Byte, a ≠ 0 → ∃ b, gfMul a b = 0x01#8 ∧ ∀ c, gfMul a c = 0x01#8 → c = b) ∧
  (∀ b : Byte, gfMul 0x00#8 b ≠ 0x01#8) ∧ gfMul 0x53#8 0xCA#8 = 0x01#8

/-- R122: gf_mul is the product of the two polynomials over GF(2), reduced modulo 0x11B. -/
def Obligations.GfMulIsTheReducedProduct : Prop :=
  ∀ a b : Byte, gfMul a b = polyReduce (polyProduct a b)

/-- R165: MixColumns is the matrix product over GF(2^8), on each of the four columns on its own. (The model
computes it with xtime, R166.) -/
def Obligations.MixColumnsIsTheMatrixProduct : Prop :=
  ∀ s : Block, mixColumns s =
    ⟨mixColumnMatrix s.c0, mixColumnMatrix s.c1, mixColumnMatrix s.c2, mixColumnMatrix s.c3⟩

/-- R163, R164: the row rotations, in the matrix view of R12. -/
def Obligations.ShiftRowsRotatesTheRows : Prop :=
  ∀ (s : Block) (r c : Nat), r < 4 → c < 4 →
    blockElem (shiftRows s) r c = blockElem s r ((c + r) % 4) ∧
    blockElem (invShiftRows s) r c = blockElem s r ((c + 4 - r) % 4)

/-- The inverse pairs that R169 marks as derived, and SubBytes commutes with ShiftRows, and their inverses commute. -/
def Obligations.RoundTransformsAreInversePairs : Prop :=
  (∀ (s : Block) (rk : List Byte) (r : Nat), addRoundKey (addRoundKey s rk r) rk r = s) ∧
  (∀ s : Block, invSubBytes (subBytes s) = s ∧ invShiftRows (shiftRows s) = s ∧
    invMixColumns (mixColumns s) = s ∧
    subBytes (shiftRows s) = shiftRows (subBytes s) ∧
    invSubBytes (invShiftRows s) = invShiftRows (invSubBytes s))

/-- R192: decryption inverts encryption and encryption inverts decryption, for every schedule, so for that of
every key. -/
def Obligations.BlockCipherIsInvertible : Prop :=
  ∀ (rk : List Byte) (x : Block),
    decryptBlock rk (encryptBlock rk x) = x ∧ encryptBlock rk (decryptBlock rk x) = x

/-- R140: the schedule's length and the word recurrence (the index is that of the new word); and that the first
round key is the key itself, the sentence R140 marks as derived, from its first loop. -/
def Obligations.KeyExpansionRecurrence : Prop :=
  ∀ k : Block,
    (keyExpansion k).length = 176 ∧ (keyExpansion k).take 16 = blockBytes k ∧
    ∀ i, 4 ≤ i → i < 44 →
      wordOfSchedule (keyExpansion k) i =
        xorQuad
          (if i % 4 = 0 then
            let u := subWord (rotWord (wordOfSchedule (keyExpansion k) (i - 1)))
            ⟨u.r0 ^^^ rcon (i / 4), u.r1, u.r2, u.r3⟩
          else wordOfSchedule (keyExpansion k) (i - 1))
          (wordOfSchedule (keyExpansion k) (i - 4))

/-- R210: block j of the CBC ciphertext is the encryption of block j of the plaintext XORed with the
ciphertext block before it, the first with the IV. -/
def Obligations.CbcEncryptionChains : Prop :=
  ∀ (rk : List Byte) (iv : Block) (p : List Byte), p.length % 16 = 0 →
    let c := cbcEncryptBlocks rk iv p
    c.length = p.length ∧
    ∀ j, j < p.length / 16 →
      blockAt c j =
        encryptBlock rk (xorBlock (blockAt p j) (if j = 0 then iv else blockAt c (j - 1)))

/-- R211: block j of the CBC plaintext is the decryption of block j of the ciphertext XORed with the ciphertext
block before it, the first with the IV; and, as R211 marks derived, CBC decryption inverts CBC encryption. -/
def Obligations.CbcDecryptionUnchains : Prop :=
  ∀ (rk : List Byte) (iv : Block) (c : List Byte), c.length % 16 = 0 →
    (cbcDecryptBlocks rk iv c).length = c.length ∧
    (∀ j, j < c.length / 16 →
      blockAt (cbcDecryptBlocks rk iv c) j =
        xorBlock (decryptBlock rk (blockAt c j)) (if j = 0 then iv else blockAt c (j - 1))) ∧
    cbcDecryptBlocks rk iv (cbcEncryptBlocks rk iv c) = c

/-- R240: Pad refuses exactly the block sizes 0 and above 255, and otherwise appends p bytes equal to p, with
1 ≤ p ≤ n, so that the length is the least multiple of n above that of the data. -/
def Obligations.PadReachesTheNextMultiple : Prop :=
  ∀ (d : List Byte) (n : Nat),
    (n = 0 ∨ 255 < n → padBytes d n = .error .invalidBlockSize) ∧
    (1 ≤ n → n ≤ 255 → ∃ p, 1 ≤ p ∧ p ≤ n ∧
      padBytes d n = .ok (d ++ List.replicate p (BitVec.ofNat 8 p)) ∧
      (d.length + p) % n = 0 ∧ ∀ m, d.length < m → m % n = 0 → d.length + p ≤ m)

/-- R241, R242: Unpad refuses the block sizes 0 and above 255, then accepts exactly the sequences of a positive
multiple of n bytes that end in a good pad, and returns them less the pad. -/
def Obligations.UnpadAcceptsExactlyGoodPads : Prop :=
  ∀ (d : List Byte) (n : Nat),
    (n = 0 ∨ 255 < n → unpadBytes d n = .error .invalidBlockSize) ∧
    (1 ≤ n → n ≤ 255 → 0 < d.length ∧ d.length % n = 0 ∧ GoodPad d n →
      unpadBytes d n = .ok (d.take (d.length - claimedPad d))) ∧
    (1 ≤ n → n ≤ 255 → ¬ (0 < d.length ∧ d.length % n = 0 ∧ GoodPad d n) →
      unpadBytes d n = .error .invalidPadding)

/-- Unpad inverts Pad, for all data and every block size 1..255: the law that R243 marks as derived. -/
def Obligations.UnpadInvertsPad : Prop :=
  ∀ (d : List Byte) (n : Nat), 1 ≤ n → n ≤ 255 →
    ∃ l, padBytes d n = .ok l ∧ unpadBytes l n = .ok d

/-- The round trip that R219 marks as derived: CBC_ENC of data shorter than BUF_BYTES, then CBC_DEC of its
output under the same schedule and IV, ends with success and the data. -/
def Obligations.PaddedCbcRoundTrip : Prop :=
  ∀ (s : State) (b : Nat), s.phase = .idle → s.keyv = true → Config.legalBufBytes s.bufBytes →
    lengthIn s < s.bufBytes →
    ∃ t, exec (.cbcEnc b) s = .next t ∧ Completed .none (complete t) ∧
      ∀ (s' : State) (b' : Nat), s'.phase = .idle → s'.keyv = true → s'.rk = s.rk → s'.iv = s.iv →
        s'.bufBytes = s.bufBytes → s'.inLen = (complete t).outLen →
        dataIn s' = (complete t).outBuf.bytes (complete t).outLen.toNat →
        CommandOutputs (.cbcDec b') s' (dataIn s)

/-- Known answers of 95_test_vectors.md, for the functions of the 40-series files: V1.1 both ways, round key 10 of
both keys of V2.3, and "abc" of V2.6 both ways. -/
def Obligations.KnownAnswers : Prop :=
  let k1 := blockFrom (fun i => BitVec.ofNat 8 i) 0
  let x1 := blockFrom (fun i => BitVec.ofNat 8 (17 * i)) 0
  let c1 : Block := ⟨⟨0x69, 0xC4, 0xE0, 0xD8⟩, ⟨0x6A, 0x7B, 0x04, 0x30⟩, ⟨0xD8, 0xCD, 0xB7, 0x80⟩,
    ⟨0x70, 0xB4, 0xC5, 0x5A⟩⟩
  let abc : List Byte := [0xB0, 0x8B, 0x1F, 0x80, 0x9A, 0x03, 0x50, 0x64, 0x42, 0x0D, 0x1D, 0x75, 0x40,
    0x22, 0xAB, 0x55]
  let k2 : Block := ⟨⟨0x2B, 0x7E, 0x15, 0x16⟩, ⟨0x28, 0xAE, 0xD2, 0xA6⟩, ⟨0xAB, 0xF7, 0x15, 0x88⟩,
    ⟨0x09, 0xCF, 0x4F, 0x3C⟩⟩
  encryptBlock (keyExpansion k1) x1 = c1 ∧ decryptBlock (keyExpansion k1) c1 = x1 ∧
  roundKey (keyExpansion k1) 10 = ⟨⟨0x13, 0x11, 0x1D, 0x7F⟩, ⟨0xE3, 0x94, 0x4A, 0x17⟩,
    ⟨0xF3, 0x07, 0xA7, 0x8B⟩, ⟨0x4D, 0x2B, 0x30, 0xC5⟩⟩ ∧
  roundKey (keyExpansion k2) 10 = ⟨⟨0xD0, 0x14, 0xF9, 0xA8⟩, ⟨0xC9, 0xEE, 0x25, 0x89⟩,
    ⟨0xE1, 0x3F, 0x0C, 0xC8⟩, ⟨0xB6, 0x63, 0x0C, 0xA6⟩⟩ ∧
  cbcEncryptBlocks (keyExpansion k1) zeroBlock
    ([0x61, 0x62, 0x63] ++ List.replicate 13 0x0D#8) = abc ∧
  unpadBytes (cbcDecryptBlocks (keyExpansion k1) zeroBlock abc) 16 = .ok [0x61, 0x62, 0x63]

/-! ### Registers and the bus -/

/-- R25: the bits of STATUS as read, and what writing it clears, busy or idle. -/
def Obligations.StatusBitsAndTheirClearing : Prop :=
  ∀ s : State,
    ((statusWord s).getLsbD 0 = isBusy s ∧ (statusWord s).getLsbD 1 = s.done ∧
      ((statusWord s).getLsbD 2 = true ↔ s.errcode ≠ .none) ∧ (statusWord s).getLsbD 3 = s.keyv ∧
      (statusWord s).getLsbD 4 = s.wib ∧ ∀ i, 5 ≤ i → (statusWord s).getLsbD i = false) ∧
    ∀ v : Word, s.inReset = false → Config.legalBufBytes s.bufBytes →
      step (before (.write 0x00C#14 0b1111#4 v) s) = .next { s with
        done := s.done && !v.getLsbD 1
        wib := s.wib && !v.getLsbD 4
        answers := .written .okay :: s.answers }

/-- R308: irq is IE and DONE; it rises at a completion with IE set and when IE is written 1 with DONE set; it
falls when DONE is cleared, when the next command is issued, and when IE is written 0. -/
def Obligations.IrqIsEnableAndDone : Prop :=
  ∀ s : State, s.inReset = false →
    irq s = (s.ie && s.done) ∧
    (s.ie = true → isBusy s = true → irq (complete s) = true) ∧
    (s.done = true → irq (writeCtrl 0x00000001#32 s) = true) ∧
    irq (writeCtrl 0x00000000#32 s) = false ∧ irq (writeStatus 0x00000002#32 s) = false ∧
    ∀ i, s.phase = .idle → ∃ t, exec i s = .next t ∧ irq t = false

/-- R60, R64: an aligned read of a mapped offset (OUT_BUF while busy apart) answers OKAY and the word of the
map, lane i from offset `off + i`, and changes nothing else. -/
def Obligations.ReadsAnswerTheMappedWord : Prop :=
  ∀ (s : State) (off : Offset), s.inReset = false → Config.legalBufBytes s.bufBytes →
    off.toNat % 4 = 0 →
    ∀ d : Word,
      ((off = 0x000#14 ∧ d = 0x41455331#32) ∨ (off = 0x004#14 ∧ d = if s.ie then 1 else 0) ∨
       (off = 0x008#14 ∧ d = 0) ∨ (off = 0x00C#14 ∧ d = statusWord s) ∨
       (off = 0x010#14 ∧ d = (errNumber s.errcode).setWidth 32) ∨ (off = 0x014#14 ∧ d = s.inLen) ∨
       (off = 0x018#14 ∧ d = s.outLen) ∨ (off = 0x01C#14 ∧ d = BitVec.ofNat 32 s.bufBytes) ∨
       (0x020 ≤ off.toNat ∧ off.toNat < 0x030 ∧ d = 0) ∨
       (0x030 ≤ off.toNat ∧ off.toNat < 0x040 ∧
         ∀ i, i < 4 → d.extractLsb' (8 * i) 8 = blockByte s.iv (off.toNat - 0x030 + i)) ∨
       (0x1000 ≤ off.toNat ∧ off.toNat < 0x1000 + s.bufBytes ∧
         ∀ i, i < 4 → d.extractLsb' (8 * i) 8 = s.inBuf.read (off.toNat - 0x1000 + i)) ∨
       (0x2000 ≤ off.toNat ∧ off.toNat < 0x2000 + s.bufBytes ∧ s.phase = .idle ∧
         ∀ i, i < 4 → d.extractLsb' (8 * i) 8 = s.outBuf.read (off.toNat - 0x2000 + i))) →
      step (before (.read off) s) = .next { s with answers := .read d .okay :: s.answers }

/-- R305: a transaction is answered ERROR exactly when it is misaligned, unmapped, or a partial write to a
control register; such a transaction changes nothing, and a read of that kind returns 0. -/
def Obligations.BusErrorsAreExactlyThese : Prop :=
  ∀ (s : State) (off : Offset), s.inReset = false →
    let bad := off.toNat % 4 ≠ 0 ∨ ¬ (off.toNat < 0x040 ∨
      (0x1000 ≤ off.toNat ∧ off.toNat < 0x1000 + s.bufBytes) ∨
      (0x2000 ≤ off.toNat ∧ off.toNat < 0x2000 + s.bufBytes))
    (∃ t d r, step (before (.read off) s) = .next t ∧ t.answers = .read d r :: s.answers ∧
      (r = .error ↔ bad) ∧ (r = .error → d = 0 ∧ t = { s with answers := t.answers })) ∧
    ∀ (strb : Strobe) (v : Word),
      ∃ t r, step (before (.write off strb v) s) = .next t ∧ t.answers = .written r :: s.answers ∧
        (r = .error ↔ bad ∨ (off.toNat < 0x020 ∧ strb ≠ 0b1111#4)) ∧
        (r = .error → t = { s with answers := t.answers })

/-- R66: what a full-word write to each control register does, busy or idle, and that a partial one gets
ERROR and does nothing. -/
def Obligations.ControlRegisterWrites : Prop :=
  ∀ (s : State) (v : Word), s.inReset = false → Config.legalBufBytes s.bufBytes →
    let ok := Answer.written .okay :: s.answers
    (∀ (off : Offset) (strb : Strobe), off.toNat % 4 = 0 → off.toNat < 0x020 → strb ≠ 0b1111#4 →
      step (before (.write off strb v) s) = .next { s with answers := .written .error :: s.answers }) ∧
    (∀ off : Offset, off = 0x000#14 ∨ off = 0x010#14 ∨ off = 0x018#14 ∨ off = 0x01C#14 →
      step (before (.write off 0b1111#4 v) s) = .next { s with answers := ok }) ∧
    step (before (.write 0x004#14 0b1111#4 v) s) = .next { s with ie := v.getLsbD 0, answers := ok } ∧
    step (before (.write 0x008#14 0b1111#4 v) s) = runWord v { s with answers := ok } ∧
    step (before (.write 0x00C#14 0b1111#4 v) s) = .next { s with
      done := s.done && !v.getLsbD 1, wib := s.wib && !v.getLsbD 4, answers := ok } ∧
    (s.phase = .idle →
      step (before (.write 0x014#14 0b1111#4 v) s) = .next { s with inLen := v, answers := ok }) ∧
    (isBusy s = true →
      step (before (.write 0x014#14 0b1111#4 v) s) = .next { s with wib := true, answers := ok })

/-- R67: an aligned write to a byte window is answered OKAY. On an idle core it stores exactly the strobed lanes
into KEY, IV or IN_BUF, lane i at offset `off + i`, and changes nothing else; on a busy core it sets WIB, unless
its mask is empty, and stores nothing. OUT_BUF is never written. -/
def Obligations.ByteWindowWrites : Prop :=
  ∀ (s : State) (off : Offset) (strb : Strobe) (v : Word), s.inReset = false →
    Config.legalBufBytes s.bufBytes → s.inBuf.wf → off.toNat % 4 = 0 →
    (InInputWindow s off.toNat → s.phase = .idle →
      ∃ t, step (before (.write off strb v) s) = .next t ∧
        t.answers = .written .okay :: s.answers ∧ SameButWindows s t ∧
        ∀ a, InInputWindow s a →
          inputByte t a =
            if off.toNat ≤ a ∧ a < off.toNat + 4 ∧ strb.getLsbD (a - off.toNat) = true then
              v.extractLsb' (8 * (a - off.toNat)) 8
            else inputByte s a) ∧
    (InInputWindow s off.toNat → isBusy s = true →
      step (before (.write off strb v) s) = .next { s with
        wib := if strb = 0b0000#4 then s.wib else true
        answers := .written .okay :: s.answers }) ∧
    (0x2000 ≤ off.toNat → off.toNat < 0x2000 + s.bufBytes →
      step (before (.write off strb v) s) = .next { s with answers := .written .okay :: s.answers })

/-- R82: a read changes nothing of the core, busy or idle: the step differs from the state only in the model's
own record of answers and count of draws. -/
def Obligations.ReadsChangeNothing : Prop :=
  ∀ (s : State) (off : Offset), s.inReset = false →
    ∃ t a n, step (before (.read off) s) = .next t ∧
      t = { s with answers := a :: s.answers, draws := s.draws + n }

/-- R312, R83: no read returns key material. Two cores that differ only in KEY and RK answer every read outside
OUT_BUF alike. OUT_BUF is left out: its bytes may be results, and what the model calls free there (R347, R349)
may be scratch data of the command (log 17). -/
def Obligations.ReadsRevealNoKeyMaterial : Prop :=
  ∀ (s : State) (k : Block) (m : Memory) (off : Offset), s.inReset = false →
    inOutBuf s.bufBytes off.toNat = false →
    ∃ a t t', step (before (.read off) s) = .next t ∧
      step (before (.read off) { s with key := k, rk := m }) = .next t' ∧
      t.answers = a :: s.answers ∧ t'.answers = a :: s.answers

/-- R99 (LDKEY), R62, R69: the four writes of LDKEY, on an idle core, leave the key in KEY, byte i at index i,
and nothing else changed but the answers. -/
def Obligations.LdKeyLoadsTheKey : Prop :=
  ∀ (s : State) (k : Block), s.inReset = false → s.phase = .idle →
    Config.legalBufBytes s.bufBytes →
    ∃ t, Sys2Proof.core.run 4 { s with events := hostEvents (ldKey k) ++ s.events } = .next t ∧
      t = { s with key := k, answers := t.answers }

/-- R99 (LDBUF), R62: the writes of LDBUF, on an idle core, leave the data in IN_BUF[0..len) and its length in
IN_LEN; IN_BUF beyond it and every other register are unchanged. -/
def Obligations.LdBufLoadsTheInput : Prop :=
  ∀ (s : State) (d : List Byte), s.inReset = false → s.phase = .idle →
    Config.legalBufBytes s.bufBytes → s.inBuf.wf → d.length ≤ s.bufBytes →
    ∃ t, Sys2Proof.core.run ((d.length + 3) / 4 + 1)
        { s with events := hostEvents (ldBuf d) ++ s.events } = .next t ∧
      lengthIn t = d.length ∧ dataIn t = d ∧
      (∀ i, d.length ≤ i → t.inBuf.read i = s.inBuf.read i) ∧
      t = { s with inBuf := t.inBuf, inLen := t.inLen, answers := t.answers }

/-! ### Whole-machine rules -/

/-- R261, R73: while a command is in flight its inputs and RK, KEYV, OUT_BUF and OUT_LEN are frozen and so is
PEND: a step out of reset leaves them, or is the completion of that command. -/
def Obligations.InputsAreFrozenWhileBusy : Prop :=
  ∀ (s t : State) (o : CmdOutcome), s.inReset = false → s.phase = .busy o → step s = .next t →
    (t.phase = .busy o ∧ t.key = s.key ∧ t.iv = s.iv ∧ t.inLen = s.inLen ∧ t.inBuf = s.inBuf ∧
      t.rk = s.rk ∧ t.keyv = s.keyv ∧ t.outBuf = s.outBuf ∧ t.outLen = s.outLen) ∨
    (∃ r, t = complete { s with events := r })

/-- R146: RK and KEYV change only at the commit of a schedule, at the commit of ZEROIZE, which clears RK, and at
reset, after which KEYV = 0. -/
def Obligations.ScheduleChangesOnlyAtItsCommits : Prop :=
  ∀ s t : State, step s = .next t → t.rk ≠ s.rk ∨ t.keyv ≠ s.keyv →
    (s.inReset = true ∧ t.keyv = false) ∨
    ∃ r, s.phase = .busy (.ok r) ∧ t.phase = .idle ∧
      ((r.zeroize = true ∧ t.keyv = false ∧ ∀ i, t.rk.read i = 0) ∨
        (r.zeroize = false ∧ r.rk ≠ none ∧ t.keyv = true))

/-- R35, R32: OUT_BUF and OUT_LEN change only at the commit of an output or of ZEROIZE, and at reset. -/
def Obligations.OutputChangesOnlyAtItsCommits : Prop :=
  ∀ s t : State, step s = .next t → t.outBuf ≠ s.outBuf ∨ t.outLen ≠ s.outLen →
    s.inReset = true ∨
    ∃ r, s.phase = .busy (.ok r) ∧ t.phase = .idle ∧ (r.out ≠ none ∨ r.zeroize = true)

/-- R29, R30, R31, R34, R216: KEY, IV, IN_LEN and IN_BUF change only by a host write to an idle core, at the
commit of ZEROIZE, and at reset: no cipher, padding or key command writes them. -/
def Obligations.InputsChangeOnlyByTheHostOrZeroize : Prop :=
  ∀ s t : State, step s = .next t →
    t.key ≠ s.key ∨ t.iv ≠ s.iv ∨ t.inLen ≠ s.inLen ∨ t.inBuf ≠ s.inBuf →
    s.inReset = true ∨ (∃ r, s.phase = .busy (.ok r) ∧ t.phase = .idle ∧ r.zeroize = true) ∨
    (s.phase = .idle ∧ ∃ off strb v r, s.events = .write off strb v :: r)

/-! ### Reset -/

/-- R42: the values after reset that the spec defines. The unspecified bytes are not spoken of. -/
def Obligations.ResetValues : Prop :=
  let s := State.reset
  s.ie = false ∧ statusWord s = 0 ∧ errcodeWord s = 0 ∧ s.inLen = 0 ∧ s.outLen = 0 ∧
  (∀ i, blockByte s.key i = 0 ∧ blockByte s.iv i = 0) ∧ s.keyv = false ∧ s.phase = .idle ∧
  irq s = false

/-- From any state a reset gives the defined values of R42, and the same state whatever is in flight, so no outcome
is committed (R340, R342). Its form is the model's choice, log 9: reset is asserted and released in two steps, where
R340 gives a model one, and the coming events are kept. -/
def Obligations.ResetAbortsAndDefines : Prop :=
  ∀ s : State, s.inReset = false →
    ∃ t, (∀ p : Phase, Sys2Proof.core.run 2
        (before .resetAssert (before .resetRelease { s with phase := p })) = .next t) ∧
      t.ie = false ∧ statusWord t = 0 ∧ errcodeWord t = 0 ∧ t.inLen = 0 ∧ t.outLen = 0 ∧
      (∀ i, blockByte t.key i = 0 ∧ blockByte t.iv i = 0) ∧ t.keyv = false ∧ t.phase = .idle ∧
      irq t = false ∧ t.inReset = false ∧ t.bufBytes = s.bufBytes ∧ t.events = s.events

/-- While `rst_n` is 0 irq is 0, and no step answers a transaction, whatever the host presents (R340). That a step in
reset changes nothing unless it is the release, so that the registers keep their values until then, is the model's
choice, log 9. -/
def Obligations.NothingIsAnsweredInReset : Prop :=
  ∀ s t : State, s.inReset = true → step s = .next t →
    irq s = false ∧ t.answers = s.answers ∧ (t = s ∨ t.inReset = false)

/-! ### Invariants -/

/-- The state after reset meets the invariants that every step keeps. -/
def Obligations.ResetMeetsTheInvariants : Prop :=
  MemoryInv State.reset ∧ ControlInv State.reset ∧ ScheduleInv State.reset

/-- R32, R37, R71, R72: every step keeps the RAMs canonical and in bounds, OUT_LEN and every pending output at
most BUF_BYTES, and every pending schedule at 176 bytes. -/
def Obligations.StepKeepsTheMemoryInvariant : Prop :=
  ∀ s t : State, MemoryInv s → step s = .next t → MemoryInv t

/-- Every step keeps DONE and ERRCODE at 0 while BUSY, as R26 marks derived and R346 says of ERRCODE. -/
def Obligations.StepKeepsTheControlInvariant : Prop :=
  ∀ s t : State, ControlInv s → step s = .next t → ControlInv t

/-- R36: every step keeps it that KEYV = 1 only when RK holds the schedule of some key. -/
def Obligations.StepKeepsTheScheduleInvariant : Prop :=
  ∀ s t : State, ScheduleInv s → step s = .next t → ScheduleInv t
end

