-- ==== Sys2Proof/Laws/Bytes.lean ====
section
/-! SUPPORT. Lengths and indexes of byte sequences, blocks, the schedule and the CBC functions. -/

namespace Sys2Proof.Machine

@[simp] theorem length_quadBytes (q : Quad) : (quadBytes q).length = 4 := rfl

@[simp] theorem length_blockBytes (b : Block) : (blockBytes b).length = 16 := rfl

@[simp] theorem length_bytesOfBlocks (bs : List Block) : (bytesOfBlocks bs).length = 16 * bs.length := by
  induction bs with
  | nil => rfl
  | cons b r ih =>
    have : bytesOfBlocks (b :: r) = blockBytes b ++ bytesOfBlocks r := by simp [bytesOfBlocks]
    rw [this, List.length_append, ih, length_blockBytes, List.length_cons]
    omega

@[simp] theorem length_blocksOf (l : List Byte) (m : Nat) : (blocksOf l m).length = m := by
  simp [blocksOf]

/-- A block read back from its own bytes is the block. -/
@[simp] theorem blockFrom_blockByte (b : Block) : blockFrom (blockByte b) 0 = b := rfl

theorem byteAt_append_left {l r : List Byte} {i : Nat} (h : i < l.length) : byteAt (l ++ r) i = byteAt l i := by
  simp [byteAt, List.getD, List.getElem?_append_left h]

theorem byteAt_append_right {l r : List Byte} {i : Nat} (h : l.length ≤ i) :
    byteAt (l ++ r) i = byteAt r (i - l.length) := by
  simp [byteAt, List.getD, List.getElem?_append_right h]

theorem blockFrom_congr {f g : Nat → Byte} {i j : Nat} (h : ∀ k < 16, f (i + k) = g (j + k)) :
    blockFrom f i = blockFrom g j := by
  simp only [blockFrom, quadFrom, Nat.add_assoc, Nat.reduceAdd]
  rw [show f i = g j from h 0 (by omega), h 1 (by omega), h 2 (by omega), h 3 (by omega),
    h 4 (by omega), h 5 (by omega), h 6 (by omega), h 7 (by omega), h 8 (by omega), h 9 (by omega),
    h 10 (by omega), h 11 (by omega), h 12 (by omega), h 13 (by omega), h 14 (by omega),
    h 15 (by omega)]

/-- Block `j` of the bytes of a sequence of blocks is its element `j`. -/
theorem blockAt_bytesOfBlocks (bs : List Block) (j : Nat) (h : j < bs.length) :
    blockAt (bytesOfBlocks bs) j = bs[j] := by
  induction bs generalizing j with
  | nil => simp at h
  | cons b r ih =>
    have hb : bytesOfBlocks (b :: r) = blockBytes b ++ bytesOfBlocks r := by simp [bytesOfBlocks]
    cases j with
    | zero =>
      rw [hb, List.getElem_cons_zero, ← blockFrom_blockByte b]
      exact blockFrom_congr fun k hk => by
        rw [byteAt_append_left (by simp; omega)]
        rfl
    | succ j =>
      have hj : j < r.length := by simpa using h
      rw [List.getElem_cons_succ, ← ih j hj, hb]
      exact blockFrom_congr fun k hk => by
        rw [byteAt_append_right (by simp; omega), length_blockBytes]
        congr 1
        omega

/-- A sequence of whole blocks is the bytes of its blocks. -/
theorem blocksOf_bytesOfBlocks (bs : List Block) : blocksOf (bytesOfBlocks bs) bs.length = bs := by
  apply List.ext_getElem
  · simp
  · intro j h1 h2
    simp [blocksOf, blockAt_bytesOfBlocks bs j h2]

@[simp] theorem length_cbcEncryptChain (rk : List Byte) (prev : Block) (bs : List Block) :
    (cbcEncryptChain rk prev bs).length = bs.length := by
  induction bs generalizing prev with
  | nil => rfl
  | cons b r ih => simp [cbcEncryptChain, ih]

@[simp] theorem length_cbcDecryptChain (rk : List Byte) (prev : Block) (bs : List Block) :
    (cbcDecryptChain rk prev bs).length = bs.length := by
  induction bs generalizing prev with
  | nil => rfl
  | cons b r ih => simp [cbcDecryptChain, ih]

@[simp] theorem length_cbcEncryptBlocks (rk : List Byte) (iv : Block) (p : List Byte) :
    (cbcEncryptBlocks rk iv p).length = 16 * (p.length / 16) := by
  simp [cbcEncryptBlocks]

@[simp] theorem length_cbcDecryptBlocks (rk : List Byte) (iv : Block) (c : List Byte) :
    (cbcDecryptBlocks rk iv c).length = 16 * (c.length / 16) := by
  simp [cbcDecryptBlocks]

@[simp] theorem length_expandFrom (n i : Nat) (a b c d : Quad) : (expandFrom n i a b c d).length = n := by
  induction n generalizing i a b c d with
  | zero => rfl
  | succ n ih => simp [expandFrom, ih]

theorem length_flatMap_quadBytes (ws : List Quad) : (ws.flatMap quadBytes).length = 4 * ws.length := by
  induction ws with
  | nil => rfl
  | cons w r ih =>
    rw [List.flatMap_cons, List.length_append, ih, length_quadBytes, List.length_cons]
    omega

@[simp] theorem length_keyWords (k : Block) : (keyWords k).length = 44 := by simp [keyWords]

/-- The schedule has 176 bytes (R37, R140). -/
@[simp] theorem length_keyExpansion (k : Block) : (keyExpansion k).length = 176 := by
  rw [keyExpansion, length_flatMap_quadBytes, length_keyWords]

theorem padLength_eq {n : Nat} (len : Nat) (h : 0 < n) : padLength len n = n - len % n := by
  have := Nat.mod_lt len h
  unfold padLength
  simp only
  split <;> omega

end Sys2Proof.Machine
end

