-- ==== Sys2Proof/Laws/Memory.lean ====
section
/-! SUPPORT. The laws of the core's RAMs: what a read gives after a write, and that every operation keeps the
canonical form and the bounds. -/

namespace Sys2Proof.Machine

/-- Strictly rising indexes, the first half of `Memory.wf`. -/
abbrev Rising (l : List Host.Cell) : Prop := l.Pairwise (fun c d => c.1 < d.1)

/-! ### Finding cells -/

theorem findCell_eq_none_of_lt {l : List Host.Cell} {i : Nat} (h : ∀ c ∈ l, i < c.1) :
    findCell l i = none := by
  induction l with
  | nil => rfl
  | cons c r ih =>
    have hc := h c (by simp)
    rw [findCell, if_neg (by omega), ih fun d hd => h d (by simp [hd])]

theorem findCell_insertCell_same (i : Nat) (b : Byte) (l : List Host.Cell) :
    findCell (insertCell i b l) i = some b := by
  induction l with
  | nil => simp [insertCell, findCell]
  | cons c r ih =>
    unfold insertCell
    split
    · simp [findCell]
    · split
      · simp [findCell]
      · rw [findCell, if_neg (by omega), ih]

theorem findCell_insertCell_other {i j : Nat} (b : Byte) (l : List Host.Cell) (h : i ≠ j) :
    findCell (insertCell i b l) j = findCell l j := by
  induction l with
  | nil => simp [insertCell, findCell, h]
  | cons c r ih =>
    unfold insertCell
    split
    · rw [findCell, if_neg h]
    · split
      · next hic => subst hic; simp [findCell, h]
      · simp [findCell, ih]

theorem findCell_eraseCell_same {i : Nat} {l : List Host.Cell} (h : Rising l) :
    findCell (eraseCell i l) i = none := by
  induction l with
  | nil => rfl
  | cons c r ih =>
    obtain ⟨hc, hr⟩ := List.pairwise_cons.1 h
    unfold eraseCell
    split
    · next hic => exact findCell_eq_none_of_lt fun d hd => hic ▸ hc d hd
    · next hic => rw [findCell, if_neg hic, ih hr]

theorem findCell_eraseCell_other {i j : Nat} (l : List Host.Cell) (h : i ≠ j) :
    findCell (eraseCell i l) j = findCell l j := by
  induction l with
  | nil => rfl
  | cons c r ih =>
    unfold eraseCell
    split
    · next hic => rw [findCell, if_neg (hic ▸ h)]
    · simp [findCell, ih]

/-! ### Membership -/

theorem mem_insertCell {i : Nat} {b : Byte} {l : List Host.Cell} {c : Host.Cell}
    (h : c ∈ insertCell i b l) : c = (i, b) ∨ c ∈ l := by
  induction l with
  | nil => simpa [insertCell] using h
  | cons d r ih =>
    unfold insertCell at h
    split at h
    · simpa using h
    · split at h
      · rcases List.mem_cons.1 h with h | h
        · exact .inl h
        · exact .inr (by simp [h])
      · rcases List.mem_cons.1 h with h | h
        · exact .inr (by simp [h])
        · exact (ih h).imp_right fun h => by simp [h]

theorem mem_eraseCell {i : Nat} {l : List Host.Cell} {c : Host.Cell} (h : c ∈ eraseCell i l) : c ∈ l := by
  induction l with
  | nil => simp [eraseCell] at h
  | cons d r ih =>
    unfold eraseCell at h
    split at h
    · simp [h]
    · rcases List.mem_cons.1 h with h | h
      · simp [h]
      · simp [ih h]

theorem rising_insertCell {l : List Host.Cell} (i : Nat) (b : Byte) (h : Rising l) :
    Rising (insertCell i b l) := by
  induction l with
  | nil => simp [insertCell]
  | cons c r ih =>
    obtain ⟨hc, hr⟩ := List.pairwise_cons.1 h
    unfold insertCell
    split
    · next hlt =>
      refine List.pairwise_cons.2 ⟨fun d hd => ?_, h⟩
      rcases List.mem_cons.1 hd with rfl | hd
      · exact hlt
      · exact Nat.lt_trans hlt (hc d hd)
    · split
      · next _ heq => exact List.pairwise_cons.2 ⟨fun d hd => heq ▸ hc d hd, hr⟩
      · refine List.pairwise_cons.2 ⟨fun d hd => ?_, ih hr⟩
        rcases mem_insertCell hd with rfl | hd
        · simp only; omega
        · exact hc d hd

theorem rising_eraseCell {l : List Host.Cell} (i : Nat) (h : Rising l) : Rising (eraseCell i l) := by
  induction l with
  | nil => simp [eraseCell]
  | cons c r ih =>
    obtain ⟨hc, hr⟩ := List.pairwise_cons.1 h
    unfold eraseCell
    split
    · exact hr
    · exact List.pairwise_cons.2 ⟨fun d hd => hc d (mem_eraseCell hd), ih hr⟩

/-! ### Listing a byte sequence -/

theorem mem_listFrom {f : Fill} {i : Nat} {l : List Byte} {c : Host.Cell} (h : c ∈ listFrom f i l) :
    i ≤ c.1 ∧ c.1 < i + l.length ∧ redundant f c.2 = false := by
  induction l generalizing i with
  | nil => simp [listFrom] at h
  | cons b r ih =>
    unfold listFrom at h
    split at h
    · obtain ⟨h1, h2, h3⟩ := ih h
      exact ⟨by omega, by simp only [List.length_cons]; omega, h3⟩
    · next hb =>
      rcases List.mem_cons.1 h with rfl | h
      · exact ⟨Nat.le_refl _, by simp, by simpa using hb⟩
      · obtain ⟨h1, h2, h3⟩ := ih h
        exact ⟨by omega, by simp only [List.length_cons]; omega, h3⟩

theorem rising_listFrom (f : Fill) (i : Nat) (l : List Byte) : Rising (listFrom f i l) := by
  induction l generalizing i with
  | nil => simp [listFrom]
  | cons b r ih =>
    unfold listFrom
    split
    · exact ih (i + 1)
    · refine List.pairwise_cons.2 ⟨fun d hd => ?_, ih (i + 1)⟩
      have := (mem_listFrom hd).1
      simp only; omega

theorem fillByte_of_redundant {f : Fill} {b : Byte} (i : Nat) (h : redundant f b = true) :
    fillByte f i = b := by
  simp only [redundant, Bool.and_eq_true, decide_eq_true_eq] at h
  rw [h.1, h.2]
  rfl

theorem read_listFrom (f : Fill) (l : List Byte) (i k : Nat) :
    (findCell (listFrom f i l) (i + k)).getD (fillByte f (i + k)) =
      l.getD k (fillByte f (i + k)) := by
  induction l generalizing i k with
  | nil => simp [listFrom, findCell]
  | cons b r ih =>
    cases k with
    | zero =>
      unfold listFrom
      split
      · next hb =>
        rw [findCell_eq_none_of_lt fun c hc => by have := (mem_listFrom hc).1; omega]
        simpa using fillByte_of_redundant i hb
      · simp [findCell]
    | succ k =>
      have hk := ih (i + 1) k
      rw [show i + 1 + k = i + (k + 1) by omega] at hk
      unfold listFrom
      split
      · simpa using hk
      · rw [findCell, if_neg (by simp only; omega)]
        simpa using hk

/-! ### The memory's laws -/

@[simp] theorem Memory.read_write_same {m : Memory} (h : m.wf) (i : Nat) (b : Byte) :
    (m.write i b).read i = b := by
  unfold Memory.write
  split
  · next hb => simp [Memory.read, findCell_eraseCell_same h.1, fillByte_of_redundant i hb]
  · simp [Memory.read, findCell_insertCell_same]

@[simp] theorem Memory.read_write_other (m : Memory) {i j : Nat} (b : Byte) (h : i ≠ j) :
    (m.write i b).read j = m.read j := by
  unfold Memory.write
  split
  · simp [Memory.read, findCell_eraseCell_other _ h]
  · simp [Memory.read, findCell_insertCell_other _ _ h]

@[simp] theorem Memory.fill_write (m : Memory) (i : Nat) (b : Byte) : (m.write i b).fill = m.fill := by
  unfold Memory.write
  split <;> rfl

theorem Memory.wf_write {m : Memory} (h : m.wf) (i : Nat) (b : Byte) : (m.write i b).wf := by
  unfold Memory.write
  split
  · exact ⟨rising_eraseCell i h.1, fun c hc => h.2 c (mem_eraseCell hc)⟩
  · next hb =>
    refine ⟨rising_insertCell i b h.1, fun c hc => ?_⟩
    rcases mem_insertCell hc with rfl | hc
    · simpa using hb
    · exact h.2 c hc

theorem Memory.bound_write {m : Memory} {n i : Nat} (b : Byte) (h : ∀ c ∈ m.cells, c.1 < n) (hi : i < n) :
    ∀ c ∈ (m.write i b).cells, c.1 < n := by
  unfold Memory.write
  split
  · exact fun c hc => h c (mem_eraseCell hc)
  · intro c hc
    rcases mem_insertCell hc with rfl | hc
    · exact hi
    · exact h c hc

theorem Memory.wf_empty (f : Fill) : (Memory.mk f []).wf :=
  ⟨List.Pairwise.nil, fun _ h => nomatch h⟩

theorem Memory.wf_ofBytes (f : Fill) (l : List Byte) : (Memory.ofBytes f l).wf :=
  ⟨rising_listFrom f 0 l, fun _ hc => (mem_listFrom hc).2.2⟩

theorem Memory.bound_ofBytes (f : Fill) (l : List Byte) :
    ∀ c ∈ (Memory.ofBytes f l).cells, c.1 < l.length := fun _ hc => by
  have := (mem_listFrom hc).2.1
  omega

theorem Memory.read_ofBytes (f : Fill) (l : List Byte) (i : Nat) :
    (Memory.ofBytes f l).read i = l.getD i (fillByte f i) := by
  have := read_listFrom f l 0 i
  simpa [Memory.read, Memory.ofBytes] using this

@[simp] theorem Memory.length_bytes (m : Memory) (n : Nat) : (m.bytes n).length = n := by
  simp [Memory.bytes]

theorem Memory.getD_bytes (m : Memory) {n i : Nat} (d : Byte) (h : i < n) : (m.bytes n).getD i d = m.read i := by
  simp [Memory.bytes, List.getD, h]

/-- The first bytes of a memory made of a sequence are the sequence. -/
@[simp] theorem Memory.bytes_ofBytes (f : Fill) (l : List Byte) :
    (Memory.ofBytes f l).bytes l.length = l := by
  apply List.ext_getElem
  · simp
  · intro i h1 h2
    simp [Memory.bytes, Memory.read_ofBytes, h2]

theorem Memory.read_zero (i : Nat) : (Memory.mk .zero []).read i = 0x00#8 := rfl

end Sys2Proof.Machine
end

