-- ==== Sys2Proof/Laws/State.lean ====
section
/-! SUPPORT. What each update of the state does to each field, by rfl, so that no proof unfolds a record
update. -/

namespace Sys2Proof.Machine

variable (s : State)

/-! ### commitFail -/

@[simp] theorem commitFail_ie (c : ErrCode) : (commitFail c s).ie = s.ie := rfl
@[simp] theorem commitFail_done (c : ErrCode) : (commitFail c s).done = s.done := rfl
@[simp] theorem commitFail_wib (c : ErrCode) : (commitFail c s).wib = s.wib := rfl
@[simp] theorem commitFail_errcode (c : ErrCode) : (commitFail c s).errcode = c := rfl
@[simp] theorem commitFail_inLen (c : ErrCode) : (commitFail c s).inLen = s.inLen := rfl
@[simp] theorem commitFail_outLen (c : ErrCode) : (commitFail c s).outLen = s.outLen := rfl
@[simp] theorem commitFail_bufBytes (c : ErrCode) : (commitFail c s).bufBytes = s.bufBytes := rfl
@[simp] theorem commitFail_key (c : ErrCode) : (commitFail c s).key = s.key := rfl
@[simp] theorem commitFail_iv (c : ErrCode) : (commitFail c s).iv = s.iv := rfl
@[simp] theorem commitFail_inBuf (c : ErrCode) : (commitFail c s).inBuf = s.inBuf := rfl
@[simp] theorem commitFail_outBuf (c : ErrCode) : (commitFail c s).outBuf = s.outBuf := rfl
@[simp] theorem commitFail_rk (c : ErrCode) : (commitFail c s).rk = s.rk := rfl
@[simp] theorem commitFail_keyv (c : ErrCode) : (commitFail c s).keyv = s.keyv := rfl
@[simp] theorem commitFail_phase (c : ErrCode) : (commitFail c s).phase = s.phase := rfl
@[simp] theorem commitFail_inReset (c : ErrCode) : (commitFail c s).inReset = s.inReset := rfl
@[simp] theorem commitFail_datapath (c : ErrCode) : (commitFail c s).datapath = s.datapath := rfl
@[simp] theorem commitFail_draws (c : ErrCode) : (commitFail c s).draws = s.draws := rfl
@[simp] theorem commitFail_events (c : ErrCode) : (commitFail c s).events = s.events := rfl
@[simp] theorem commitFail_answers (c : ErrCode) : (commitFail c s).answers = s.answers := rfl

/-! ### commitOut -/

@[simp] theorem commitOut_ie (l : List Byte) : (commitOut l s).ie = s.ie := rfl
@[simp] theorem commitOut_done (l : List Byte) : (commitOut l s).done = s.done := rfl
@[simp] theorem commitOut_wib (l : List Byte) : (commitOut l s).wib = s.wib := rfl
@[simp] theorem commitOut_errcode (l : List Byte) : (commitOut l s).errcode = s.errcode := rfl
@[simp] theorem commitOut_inLen (l : List Byte) : (commitOut l s).inLen = s.inLen := rfl
@[simp] theorem commitOut_outLen (l : List Byte) : (commitOut l s).outLen = BitVec.ofNat 32 l.length := rfl
@[simp] theorem commitOut_bufBytes (l : List Byte) : (commitOut l s).bufBytes = s.bufBytes := rfl
@[simp] theorem commitOut_key (l : List Byte) : (commitOut l s).key = s.key := rfl
@[simp] theorem commitOut_iv (l : List Byte) : (commitOut l s).iv = s.iv := rfl
@[simp] theorem commitOut_inBuf (l : List Byte) : (commitOut l s).inBuf = s.inBuf := rfl
@[simp] theorem commitOut_outBuf (l : List Byte) : (commitOut l s).outBuf = Memory.ofBytes (.draw s.draws) l := rfl
@[simp] theorem commitOut_rk (l : List Byte) : (commitOut l s).rk = s.rk := rfl
@[simp] theorem commitOut_keyv (l : List Byte) : (commitOut l s).keyv = s.keyv := rfl
@[simp] theorem commitOut_phase (l : List Byte) : (commitOut l s).phase = s.phase := rfl
@[simp] theorem commitOut_inReset (l : List Byte) : (commitOut l s).inReset = s.inReset := rfl
@[simp] theorem commitOut_datapath (l : List Byte) : (commitOut l s).datapath = s.datapath := rfl
@[simp] theorem commitOut_draws (l : List Byte) : (commitOut l s).draws = s.draws + 1 := rfl
@[simp] theorem commitOut_events (l : List Byte) : (commitOut l s).events = s.events := rfl
@[simp] theorem commitOut_answers (l : List Byte) : (commitOut l s).answers = s.answers := rfl

/-! ### commitRk -/

@[simp] theorem commitRk_ie (l : List Byte) : (commitRk l s).ie = s.ie := rfl
@[simp] theorem commitRk_done (l : List Byte) : (commitRk l s).done = s.done := rfl
@[simp] theorem commitRk_wib (l : List Byte) : (commitRk l s).wib = s.wib := rfl
@[simp] theorem commitRk_errcode (l : List Byte) : (commitRk l s).errcode = s.errcode := rfl
@[simp] theorem commitRk_inLen (l : List Byte) : (commitRk l s).inLen = s.inLen := rfl
@[simp] theorem commitRk_outLen (l : List Byte) : (commitRk l s).outLen = s.outLen := rfl
@[simp] theorem commitRk_bufBytes (l : List Byte) : (commitRk l s).bufBytes = s.bufBytes := rfl
@[simp] theorem commitRk_key (l : List Byte) : (commitRk l s).key = s.key := rfl
@[simp] theorem commitRk_iv (l : List Byte) : (commitRk l s).iv = s.iv := rfl
@[simp] theorem commitRk_inBuf (l : List Byte) : (commitRk l s).inBuf = s.inBuf := rfl
@[simp] theorem commitRk_outBuf (l : List Byte) : (commitRk l s).outBuf = s.outBuf := rfl
@[simp] theorem commitRk_rk (l : List Byte) : (commitRk l s).rk = Memory.ofBytes .zero l := rfl
@[simp] theorem commitRk_keyv (l : List Byte) : (commitRk l s).keyv = true := rfl
@[simp] theorem commitRk_phase (l : List Byte) : (commitRk l s).phase = s.phase := rfl
@[simp] theorem commitRk_inReset (l : List Byte) : (commitRk l s).inReset = s.inReset := rfl
@[simp] theorem commitRk_datapath (l : List Byte) : (commitRk l s).datapath = s.datapath := rfl
@[simp] theorem commitRk_draws (l : List Byte) : (commitRk l s).draws = s.draws := rfl
@[simp] theorem commitRk_events (l : List Byte) : (commitRk l s).events = s.events := rfl
@[simp] theorem commitRk_answers (l : List Byte) : (commitRk l s).answers = s.answers := rfl

/-! ### zeroizeState -/

@[simp] theorem zeroizeState_ie : (zeroizeState s).ie = s.ie := rfl
@[simp] theorem zeroizeState_done : (zeroizeState s).done = s.done := rfl
@[simp] theorem zeroizeState_wib : (zeroizeState s).wib = s.wib := rfl
@[simp] theorem zeroizeState_errcode : (zeroizeState s).errcode = s.errcode := rfl
@[simp] theorem zeroizeState_inLen : (zeroizeState s).inLen = 0x00000000#32 := rfl
@[simp] theorem zeroizeState_outLen : (zeroizeState s).outLen = 0x00000000#32 := rfl
@[simp] theorem zeroizeState_bufBytes : (zeroizeState s).bufBytes = s.bufBytes := rfl
@[simp] theorem zeroizeState_key : (zeroizeState s).key = zeroBlock := rfl
@[simp] theorem zeroizeState_iv : (zeroizeState s).iv = zeroBlock := rfl
@[simp] theorem zeroizeState_inBuf : (zeroizeState s).inBuf = ⟨.zero, []⟩ := rfl
@[simp] theorem zeroizeState_outBuf : (zeroizeState s).outBuf = ⟨.zero, []⟩ := rfl
@[simp] theorem zeroizeState_rk : (zeroizeState s).rk = ⟨.zero, []⟩ := rfl
@[simp] theorem zeroizeState_keyv : (zeroizeState s).keyv = false := rfl
@[simp] theorem zeroizeState_phase : (zeroizeState s).phase = s.phase := rfl
@[simp] theorem zeroizeState_inReset : (zeroizeState s).inReset = s.inReset := rfl
@[simp] theorem zeroizeState_datapath : (zeroizeState s).datapath = s.datapath := rfl
@[simp] theorem zeroizeState_draws : (zeroizeState s).draws = s.draws := rfl
@[simp] theorem zeroizeState_events : (zeroizeState s).events = s.events := rfl
@[simp] theorem zeroizeState_answers : (zeroizeState s).answers = s.answers := rfl

/-! ### writeCtrl -/

@[simp] theorem writeCtrl_ie (v : Word) : (writeCtrl v s).ie = v.getLsbD 0 := rfl
@[simp] theorem writeCtrl_done (v : Word) : (writeCtrl v s).done = s.done := rfl
@[simp] theorem writeCtrl_wib (v : Word) : (writeCtrl v s).wib = s.wib := rfl
@[simp] theorem writeCtrl_errcode (v : Word) : (writeCtrl v s).errcode = s.errcode := rfl
@[simp] theorem writeCtrl_inLen (v : Word) : (writeCtrl v s).inLen = s.inLen := rfl
@[simp] theorem writeCtrl_outLen (v : Word) : (writeCtrl v s).outLen = s.outLen := rfl
@[simp] theorem writeCtrl_bufBytes (v : Word) : (writeCtrl v s).bufBytes = s.bufBytes := rfl
@[simp] theorem writeCtrl_key (v : Word) : (writeCtrl v s).key = s.key := rfl
@[simp] theorem writeCtrl_iv (v : Word) : (writeCtrl v s).iv = s.iv := rfl
@[simp] theorem writeCtrl_inBuf (v : Word) : (writeCtrl v s).inBuf = s.inBuf := rfl
@[simp] theorem writeCtrl_outBuf (v : Word) : (writeCtrl v s).outBuf = s.outBuf := rfl
@[simp] theorem writeCtrl_rk (v : Word) : (writeCtrl v s).rk = s.rk := rfl
@[simp] theorem writeCtrl_keyv (v : Word) : (writeCtrl v s).keyv = s.keyv := rfl
@[simp] theorem writeCtrl_phase (v : Word) : (writeCtrl v s).phase = s.phase := rfl
@[simp] theorem writeCtrl_inReset (v : Word) : (writeCtrl v s).inReset = s.inReset := rfl
@[simp] theorem writeCtrl_datapath (v : Word) : (writeCtrl v s).datapath = s.datapath := rfl
@[simp] theorem writeCtrl_draws (v : Word) : (writeCtrl v s).draws = s.draws := rfl
@[simp] theorem writeCtrl_events (v : Word) : (writeCtrl v s).events = s.events := rfl
@[simp] theorem writeCtrl_answers (v : Word) : (writeCtrl v s).answers = s.answers := rfl

/-! ### writeStatus -/

@[simp] theorem writeStatus_ie (v : Word) : (writeStatus v s).ie = s.ie := rfl
@[simp] theorem writeStatus_done (v : Word) : (writeStatus v s).done = (s.done && !v.getLsbD 1) := rfl
@[simp] theorem writeStatus_wib (v : Word) : (writeStatus v s).wib = (s.wib && !v.getLsbD 4) := rfl
@[simp] theorem writeStatus_errcode (v : Word) : (writeStatus v s).errcode = s.errcode := rfl
@[simp] theorem writeStatus_inLen (v : Word) : (writeStatus v s).inLen = s.inLen := rfl
@[simp] theorem writeStatus_outLen (v : Word) : (writeStatus v s).outLen = s.outLen := rfl
@[simp] theorem writeStatus_bufBytes (v : Word) : (writeStatus v s).bufBytes = s.bufBytes := rfl
@[simp] theorem writeStatus_key (v : Word) : (writeStatus v s).key = s.key := rfl
@[simp] theorem writeStatus_iv (v : Word) : (writeStatus v s).iv = s.iv := rfl
@[simp] theorem writeStatus_inBuf (v : Word) : (writeStatus v s).inBuf = s.inBuf := rfl
@[simp] theorem writeStatus_outBuf (v : Word) : (writeStatus v s).outBuf = s.outBuf := rfl
@[simp] theorem writeStatus_rk (v : Word) : (writeStatus v s).rk = s.rk := rfl
@[simp] theorem writeStatus_keyv (v : Word) : (writeStatus v s).keyv = s.keyv := rfl
@[simp] theorem writeStatus_phase (v : Word) : (writeStatus v s).phase = s.phase := rfl
@[simp] theorem writeStatus_inReset (v : Word) : (writeStatus v s).inReset = s.inReset := rfl
@[simp] theorem writeStatus_datapath (v : Word) : (writeStatus v s).datapath = s.datapath := rfl
@[simp] theorem writeStatus_draws (v : Word) : (writeStatus v s).draws = s.draws := rfl
@[simp] theorem writeStatus_events (v : Word) : (writeStatus v s).events = s.events := rfl
@[simp] theorem writeStatus_answers (v : Word) : (writeStatus v s).answers = s.answers := rfl

/-! ### storeKey -/

@[simp] theorem storeKey_ie (i : Nat) (b : Byte) : (storeKey i b s).ie = s.ie := rfl
@[simp] theorem storeKey_done (i : Nat) (b : Byte) : (storeKey i b s).done = s.done := rfl
@[simp] theorem storeKey_wib (i : Nat) (b : Byte) : (storeKey i b s).wib = s.wib := rfl
@[simp] theorem storeKey_errcode (i : Nat) (b : Byte) : (storeKey i b s).errcode = s.errcode := rfl
@[simp] theorem storeKey_inLen (i : Nat) (b : Byte) : (storeKey i b s).inLen = s.inLen := rfl
@[simp] theorem storeKey_outLen (i : Nat) (b : Byte) : (storeKey i b s).outLen = s.outLen := rfl
@[simp] theorem storeKey_bufBytes (i : Nat) (b : Byte) : (storeKey i b s).bufBytes = s.bufBytes := rfl
@[simp] theorem storeKey_key (i : Nat) (b : Byte) : (storeKey i b s).key = blockFrom (fun k => if k = i then b else blockByte s.key k) 0 := rfl
@[simp] theorem storeKey_iv (i : Nat) (b : Byte) : (storeKey i b s).iv = s.iv := rfl
@[simp] theorem storeKey_inBuf (i : Nat) (b : Byte) : (storeKey i b s).inBuf = s.inBuf := rfl
@[simp] theorem storeKey_outBuf (i : Nat) (b : Byte) : (storeKey i b s).outBuf = s.outBuf := rfl
@[simp] theorem storeKey_rk (i : Nat) (b : Byte) : (storeKey i b s).rk = s.rk := rfl
@[simp] theorem storeKey_keyv (i : Nat) (b : Byte) : (storeKey i b s).keyv = s.keyv := rfl
@[simp] theorem storeKey_phase (i : Nat) (b : Byte) : (storeKey i b s).phase = s.phase := rfl
@[simp] theorem storeKey_inReset (i : Nat) (b : Byte) : (storeKey i b s).inReset = s.inReset := rfl
@[simp] theorem storeKey_datapath (i : Nat) (b : Byte) : (storeKey i b s).datapath = s.datapath := rfl
@[simp] theorem storeKey_draws (i : Nat) (b : Byte) : (storeKey i b s).draws = s.draws := rfl
@[simp] theorem storeKey_events (i : Nat) (b : Byte) : (storeKey i b s).events = s.events := rfl
@[simp] theorem storeKey_answers (i : Nat) (b : Byte) : (storeKey i b s).answers = s.answers := rfl

/-! ### storeIv -/

@[simp] theorem storeIv_ie (i : Nat) (b : Byte) : (storeIv i b s).ie = s.ie := rfl
@[simp] theorem storeIv_done (i : Nat) (b : Byte) : (storeIv i b s).done = s.done := rfl
@[simp] theorem storeIv_wib (i : Nat) (b : Byte) : (storeIv i b s).wib = s.wib := rfl
@[simp] theorem storeIv_errcode (i : Nat) (b : Byte) : (storeIv i b s).errcode = s.errcode := rfl
@[simp] theorem storeIv_inLen (i : Nat) (b : Byte) : (storeIv i b s).inLen = s.inLen := rfl
@[simp] theorem storeIv_outLen (i : Nat) (b : Byte) : (storeIv i b s).outLen = s.outLen := rfl
@[simp] theorem storeIv_bufBytes (i : Nat) (b : Byte) : (storeIv i b s).bufBytes = s.bufBytes := rfl
@[simp] theorem storeIv_key (i : Nat) (b : Byte) : (storeIv i b s).key = s.key := rfl
@[simp] theorem storeIv_iv (i : Nat) (b : Byte) : (storeIv i b s).iv = blockFrom (fun k => if k = i then b else blockByte s.iv k) 0 := rfl
@[simp] theorem storeIv_inBuf (i : Nat) (b : Byte) : (storeIv i b s).inBuf = s.inBuf := rfl
@[simp] theorem storeIv_outBuf (i : Nat) (b : Byte) : (storeIv i b s).outBuf = s.outBuf := rfl
@[simp] theorem storeIv_rk (i : Nat) (b : Byte) : (storeIv i b s).rk = s.rk := rfl
@[simp] theorem storeIv_keyv (i : Nat) (b : Byte) : (storeIv i b s).keyv = s.keyv := rfl
@[simp] theorem storeIv_phase (i : Nat) (b : Byte) : (storeIv i b s).phase = s.phase := rfl
@[simp] theorem storeIv_inReset (i : Nat) (b : Byte) : (storeIv i b s).inReset = s.inReset := rfl
@[simp] theorem storeIv_datapath (i : Nat) (b : Byte) : (storeIv i b s).datapath = s.datapath := rfl
@[simp] theorem storeIv_draws (i : Nat) (b : Byte) : (storeIv i b s).draws = s.draws := rfl
@[simp] theorem storeIv_events (i : Nat) (b : Byte) : (storeIv i b s).events = s.events := rfl
@[simp] theorem storeIv_answers (i : Nat) (b : Byte) : (storeIv i b s).answers = s.answers := rfl

/-! ### storeInBuf -/

@[simp] theorem storeInBuf_ie (i : Nat) (b : Byte) : (storeInBuf i b s).ie = s.ie := rfl
@[simp] theorem storeInBuf_done (i : Nat) (b : Byte) : (storeInBuf i b s).done = s.done := rfl
@[simp] theorem storeInBuf_wib (i : Nat) (b : Byte) : (storeInBuf i b s).wib = s.wib := rfl
@[simp] theorem storeInBuf_errcode (i : Nat) (b : Byte) : (storeInBuf i b s).errcode = s.errcode := rfl
@[simp] theorem storeInBuf_inLen (i : Nat) (b : Byte) : (storeInBuf i b s).inLen = s.inLen := rfl
@[simp] theorem storeInBuf_outLen (i : Nat) (b : Byte) : (storeInBuf i b s).outLen = s.outLen := rfl
@[simp] theorem storeInBuf_bufBytes (i : Nat) (b : Byte) : (storeInBuf i b s).bufBytes = s.bufBytes := rfl
@[simp] theorem storeInBuf_key (i : Nat) (b : Byte) : (storeInBuf i b s).key = s.key := rfl
@[simp] theorem storeInBuf_iv (i : Nat) (b : Byte) : (storeInBuf i b s).iv = s.iv := rfl
@[simp] theorem storeInBuf_inBuf (i : Nat) (b : Byte) : (storeInBuf i b s).inBuf = s.inBuf.write i b := rfl
@[simp] theorem storeInBuf_outBuf (i : Nat) (b : Byte) : (storeInBuf i b s).outBuf = s.outBuf := rfl
@[simp] theorem storeInBuf_rk (i : Nat) (b : Byte) : (storeInBuf i b s).rk = s.rk := rfl
@[simp] theorem storeInBuf_keyv (i : Nat) (b : Byte) : (storeInBuf i b s).keyv = s.keyv := rfl
@[simp] theorem storeInBuf_phase (i : Nat) (b : Byte) : (storeInBuf i b s).phase = s.phase := rfl
@[simp] theorem storeInBuf_inReset (i : Nat) (b : Byte) : (storeInBuf i b s).inReset = s.inReset := rfl
@[simp] theorem storeInBuf_datapath (i : Nat) (b : Byte) : (storeInBuf i b s).datapath = s.datapath := rfl
@[simp] theorem storeInBuf_draws (i : Nat) (b : Byte) : (storeInBuf i b s).draws = s.draws := rfl
@[simp] theorem storeInBuf_events (i : Nat) (b : Byte) : (storeInBuf i b s).events = s.events := rfl
@[simp] theorem storeInBuf_answers (i : Nat) (b : Byte) : (storeInBuf i b s).answers = s.answers := rfl

/-! ### answer -/

@[simp] theorem answer_ie (a : Answer) : (answer a s).ie = s.ie := rfl
@[simp] theorem answer_done (a : Answer) : (answer a s).done = s.done := rfl
@[simp] theorem answer_wib (a : Answer) : (answer a s).wib = s.wib := rfl
@[simp] theorem answer_errcode (a : Answer) : (answer a s).errcode = s.errcode := rfl
@[simp] theorem answer_inLen (a : Answer) : (answer a s).inLen = s.inLen := rfl
@[simp] theorem answer_outLen (a : Answer) : (answer a s).outLen = s.outLen := rfl
@[simp] theorem answer_bufBytes (a : Answer) : (answer a s).bufBytes = s.bufBytes := rfl
@[simp] theorem answer_key (a : Answer) : (answer a s).key = s.key := rfl
@[simp] theorem answer_iv (a : Answer) : (answer a s).iv = s.iv := rfl
@[simp] theorem answer_inBuf (a : Answer) : (answer a s).inBuf = s.inBuf := rfl
@[simp] theorem answer_outBuf (a : Answer) : (answer a s).outBuf = s.outBuf := rfl
@[simp] theorem answer_rk (a : Answer) : (answer a s).rk = s.rk := rfl
@[simp] theorem answer_keyv (a : Answer) : (answer a s).keyv = s.keyv := rfl
@[simp] theorem answer_phase (a : Answer) : (answer a s).phase = s.phase := rfl
@[simp] theorem answer_inReset (a : Answer) : (answer a s).inReset = s.inReset := rfl
@[simp] theorem answer_datapath (a : Answer) : (answer a s).datapath = s.datapath := rfl
@[simp] theorem answer_draws (a : Answer) : (answer a s).draws = s.draws := rfl
@[simp] theorem answer_events (a : Answer) : (answer a s).events = s.events := rfl
@[simp] theorem answer_answers (a : Answer) : (answer a s).answers = a :: s.answers := rfl

/-! ### resetState -/

@[simp] theorem resetState_ie : (resetState s).ie = false := rfl
@[simp] theorem resetState_done : (resetState s).done = false := rfl
@[simp] theorem resetState_wib : (resetState s).wib = false := rfl
@[simp] theorem resetState_errcode : (resetState s).errcode = .none := rfl
@[simp] theorem resetState_inLen : (resetState s).inLen = 0x00000000#32 := rfl
@[simp] theorem resetState_outLen : (resetState s).outLen = 0x00000000#32 := rfl
@[simp] theorem resetState_bufBytes : (resetState s).bufBytes = s.bufBytes := rfl
@[simp] theorem resetState_key : (resetState s).key = zeroBlock := rfl
@[simp] theorem resetState_iv : (resetState s).iv = zeroBlock := rfl
@[simp] theorem resetState_inBuf : (resetState s).inBuf = ⟨.draw s.draws, []⟩ := rfl
@[simp] theorem resetState_outBuf : (resetState s).outBuf = ⟨.draw (s.draws + 1), []⟩ := rfl
@[simp] theorem resetState_rk : (resetState s).rk = ⟨.draw (s.draws + 2), []⟩ := rfl
@[simp] theorem resetState_keyv : (resetState s).keyv = false := rfl
@[simp] theorem resetState_phase : (resetState s).phase = .idle := rfl
@[simp] theorem resetState_inReset : (resetState s).inReset = false := rfl
@[simp] theorem resetState_datapath : (resetState s).datapath = s.draws + 3 := rfl
@[simp] theorem resetState_draws : (resetState s).draws = s.draws + 4 := rfl
@[simp] theorem resetState_events : (resetState s).events = s.events := rfl
@[simp] theorem resetState_answers : (resetState s).answers = s.answers := rfl

/-! ### complete -/

@[simp] theorem complete_of_idle (h : s.phase = .idle) : complete s = s := by
  unfold complete
  rw [h]

theorem complete_of_busy {o : CmdOutcome} (h : s.phase = .busy o) :
    complete s = { commit o s with
      phase := .idle
      done := true
      datapath := (commit o s).draws
      draws := (commit o s).draws + 1 } := by
  unfold complete
  rw [h]

/-! ### issue -/

theorem issue_of_busy {p : CmdOutcome} (o : CmdOutcome) (h : s.phase = .busy p) :
    issue o s = { s with wib := true } := by
  unfold issue
  rw [h]

theorem issue_of_idle (o : CmdOutcome) (h : s.phase = .idle) :
    issue o s = { s with
      done := false
      errcode := .none
      phase := .busy o
      datapath := s.draws
      draws := s.draws + 1 } := by
  unfold issue
  rw [h]

/-! ### isBusy -/

theorem isBusy_of_busy {o : CmdOutcome} (h : s.phase = .busy o) : isBusy s = true := by
  simp [isBusy, h]

theorem isBusy_of_idle (h : s.phase = .idle) : isBusy s = false := by
  simp [isBusy, h]

theorem isBusy_eq_true_iff : isBusy s = true ↔ ∃ o, s.phase = .busy o := by
  unfold isBusy
  cases s.phase <;> simp

theorem isBusy_eq_false_iff : isBusy s = false ↔ s.phase = .idle := by
  unfold isBusy
  cases s.phase <;> simp

end Sys2Proof.Machine
end

