-- ==== Sys2Proof/Laws/Exec.lean ====
section
/-! SUPPORT. What exec, completion, the bus and the step can do, said once: later proofs cite these and
unfold none of them. -/

namespace Sys2Proof.Machine

/-! ### exec -/

/-- `Exec(cmd, snap)` (R265): the semantic function of each command. -/
def outcomeOf (i : Instr) (p : Snapshot) : CmdOutcome :=
  match i with
  | .nop _ => outcomeNop
  | .keyExpand _ => outcomeKeyExpand p
  | .encBlock _ => outcomeEncBlock p
  | .decBlock _ => outcomeDecBlock p
  | .cbcEnc _ => outcomeCbcEnc p
  | .cbcDec _ => outcomeCbcDec p
  | .cbcEncNoPad _ => outcomeCbcEncNoPad p
  | .cbcDecNoPad _ => outcomeCbcDecNoPad p
  | .pad bsz => outcomePad p bsz
  | .unpad bsz => outcomeUnpad p bsz
  | .zeroize _ => outcomeZeroize
  | .reservedB _ => outcomeIllegal
  | .reservedC _ => outcomeIllegal
  | .reservedD _ => outcomeIllegal
  | .reservedE _ => outcomeIllegal
  | .reservedF _ => outcomeIllegal

/-- Every command is issued with the outcome of its semantic function (R260, R265). -/
theorem exec_eq_issue (i : Instr) (s : State) :
    exec i s = .next (issue (outcomeOf i (snapshot s)) s) := by
  cases i <;> rfl

theorem runWord_eq_issue (w : Word) (s : State) : ∃ o, runWord w s = .next (issue o s) := by
  unfold runWord
  split
  · next i _ => exact ⟨_, exec_eq_issue i s⟩
  · exact ⟨_, rfl⟩

/-! ### issue, commit and completion -/

theorem issue_same_of_idle {s : State} (o : CmdOutcome) (h : s.phase = .idle) : Issued s (issue o s) := by
  rw [issue_of_idle s o h]
  exact ⟨rfl, rfl, rfl, by constructor <;> rfl⟩

theorem complete_fail {t : State} {c : ErrCode} (h : t.phase = .busy (.fail c)) :
    Completed c (complete t) ∧ SameButLifecycle t (complete t) := by
  rw [complete_of_busy t h]
  exact ⟨⟨rfl, rfl, rfl⟩, by constructor <;> rfl⟩

theorem complete_okOut {t : State} {l : List Byte} (h : t.phase = .busy (okOut l)) :
    Completed .none (complete t) ∧ (complete t).outLen = BitVec.ofNat 32 l.length ∧
      (complete t).outBuf = Memory.ofBytes (.draw t.draws) l ∧ SameButOutput t (complete t) := by
  rw [complete_of_busy t h]
  exact ⟨⟨rfl, rfl, rfl⟩, rfl, rfl, by constructor <;> rfl⟩

theorem SameButLifecycle.trans {s t u : State} (h : SameButLifecycle s t) (k : SameButLifecycle t u) :
    SameButLifecycle s u := by
  constructor
  · exact k.ie.trans h.ie
  · exact k.wib.trans h.wib
  · exact k.inLen.trans h.inLen
  · exact k.outLen.trans h.outLen
  · exact k.bufBytes.trans h.bufBytes
  · exact k.key.trans h.key
  · exact k.iv.trans h.iv
  · exact k.inBuf.trans h.inBuf
  · exact k.outBuf.trans h.outBuf
  · exact k.rk.trans h.rk
  · exact k.keyv.trans h.keyv
  · exact k.inReset.trans h.inReset
  · exact k.events.trans h.events
  · exact k.answers.trans h.answers

theorem SameButOutput.of_lifecycle {s t u : State} (h : SameButLifecycle s t) (k : SameButOutput t u) :
    SameButOutput s u := by
  constructor
  · exact k.ie.trans h.ie
  · exact k.wib.trans h.wib
  · exact k.inLen.trans h.inLen
  · exact k.bufBytes.trans h.bufBytes
  · exact k.key.trans h.key
  · exact k.iv.trans h.iv
  · exact k.inBuf.trans h.inBuf
  · exact k.rk.trans h.rk
  · exact k.keyv.trans h.keyv
  · exact k.inReset.trans h.inReset
  · exact k.events.trans h.events
  · exact k.answers.trans h.answers

/-- A command whose outcome is a failure fails with its code. -/
theorem commandFails_of_outcome {i : Instr} {s : State} {c : ErrCode} (h : s.phase = .idle)
    (ho : outcomeOf i (snapshot s) = .fail c) : CommandFails i s c := by
  have hb : (issue (.fail c) s).phase = .busy (.fail c) := by rw [issue_of_idle s _ h]
  obtain ⟨hc, hs⟩ := complete_fail hb
  exact ⟨_, ho ▸ exec_eq_issue i s, issue_same_of_idle _ h, hc, (issue_same_of_idle _ h).same.trans hs⟩

/-- A command whose outcome is output produces that output. -/
theorem commandOutputs_of_outcome {i : Instr} {s : State} {l : List Byte} (h : s.phase = .idle)
    (hl : l.length < 2 ^ 32) (ho : outcomeOf i (snapshot s) = okOut l) : CommandOutputs i s l := by
  have hb : (issue (okOut l) s).phase = .busy (okOut l) := by rw [issue_of_idle s _ h]
  obtain ⟨hc, hn, hm, hs⟩ := complete_okOut hb
  refine ⟨_, ho ▸ exec_eq_issue i s, issue_same_of_idle _ h, hc, ?_, ?_,
    .of_lifecycle (issue_same_of_idle _ h).same hs⟩
  · rw [hn, BitVec.toNat_ofNat, Nat.mod_eq_of_lt hl]
  · rw [hm, Memory.bytes_ofBytes]

/-! ### The bus -/

theorem memRead_cases (off : Offset) (s : State) :
    (badOffset s off = true ∧ memRead off s = answer (.read 0x00000000#32 .error) s) ∨
    (badOffset s off = false ∧ isBusy s = true ∧ inOutBuf s.bufBytes off.toNat = true ∧
      memRead off s = answer (.read (wordFrom (Config.freeByte s.draws) 0) .okay)
        { s with draws := s.draws + 1 }) ∨
    (badOffset s off = false ∧ (isBusy s = false ∨ inOutBuf s.bufBytes off.toNat = false) ∧
      memRead off s = answer (.read (wordFrom (loadByte s) off.toNat) .okay) s) := by
  unfold memRead
  cases hb : badOffset s off <;> cases hy : isBusy s <;> cases ho : inOutBuf s.bufBytes off.toNat <;> simp

/-- A read changes nothing but the record of answers and the model's draws (R82). -/
theorem memRead_frame (off : Offset) (s : State) :
    ∃ a n, memRead off s = { s with answers := a :: s.answers, draws := s.draws + n } := by
  rcases memRead_cases off s with ⟨_, h⟩ | ⟨_, _, _, h⟩ | ⟨_, _, h⟩
  · exact ⟨_, 0, h⟩
  · exact ⟨_, 1, h⟩
  · exact ⟨_, 0, h⟩

theorem memWrite_cases (off : Offset) (strb : Strobe) (v : Word) (s : State) :
    ((badOffset s off || partialControlWrite off strb) = true ∧
      memWrite off strb v s = .next (answer (.written .error) s)) ∨
    ((badOffset s off || partialControlWrite off strb) = false ∧
      memWrite off strb v s = writeLocation off.toNat strb v (answer (.written .okay) s)) := by
  unfold memWrite
  cases (badOffset s off || partialControlWrite off strb) <;> simp

/-- Everything a write to a location can do (R66 to R68). -/
theorem writeLocation_cases (off : Nat) (strb : Strobe) (v : Word) (s : State) :
    (off = 0x004 ∧ writeLocation off strb v s = .next (writeCtrl v s)) ∨
    (off = 0x008 ∧ writeLocation off strb v s = runWord v s) ∨
    (off = 0x00C ∧ writeLocation off strb v s = .next (writeStatus v s)) ∨
    (off = 0x014 ∧ writeLocation off strb v s = .next (writeInLen v s)) ∨
    (off < 0x020 ∧ writeLocation off strb v s = .next s) ∨
    (0x020 ≤ off ∧ off < 0x030 ∧
      writeLocation off strb v s = .next (writeWindow storeKey (off - 0x020) strb v s)) ∨
    (0x030 ≤ off ∧ off < 0x040 ∧
      writeLocation off strb v s = .next (writeWindow storeIv (off - 0x030) strb v s)) ∨
    (0x040 ≤ off ∧ off < 0x2000 ∧
      writeLocation off strb v s = .next (writeWindow storeInBuf (off - 0x1000) strb v s)) ∨
    (0x2000 ≤ off ∧ writeLocation off strb v s = .next s) := by
  unfold writeLocation
  repeat' split
  all_goals simp_all

/-- A property of states that the four lanes' stores keep is kept by a write to a window, if setting WIB
keeps it too. -/
theorem writeWindow_keeps (P : State → Prop) {store : Nat → Byte → State → State} {base : Nat}
    {strb : Strobe} {v : Word} {s : State} (h : P s) (hw : P { s with wib := true })
    (hs : ∀ i b t, i < 4 → P t → P (store (base + i) b t)) : P (writeWindow store base strb v s) := by
  have hl : ∀ i t, i < 4 → P t → P (storeLane store base strb v i t) := by
    intro i t hi ht
    unfold storeLane
    split
    · exact hs i _ t hi ht
    · exact ht
  unfold writeWindow
  split
  · split
    · exact h
    · exact hw
  · exact hl 3 _ (by omega) (hl 2 _ (by omega) (hl 1 _ (by omega) (hl 0 _ (by omega) h)))

/-! ### The step -/

/-- Everything one step can do (R263, R310, R340). -/
theorem advance_cases (s : State) :
    (s.inReset = true ∧ afterRelease s.events = none ∧ advance s = .next s) ∨
    (s.inReset = true ∧ ∃ r, afterRelease s.events = some r ∧
      advance s = .next (resetState { s with events := r })) ∨
    (s.inReset = false ∧ s.events = [] ∧ advance s = .next (complete s)) ∨
    (s.inReset = false ∧ ∃ e r, s.events = e :: r ∧ advance s = serve e { s with events := r }) := by
  unfold advance
  cases hr : s.inReset
  · cases he : s.events with
    | nil => simp
    | cons e r => simp
  · cases ha : afterRelease s.events with
    | none => simp
    | some r => simp

end Sys2Proof.Machine
end

