-- ==== Sys2Proof/Laws/Draws.lean ====
section
/-! SUPPORT. The counter of draws runs ahead of every free value in the state, so each draw is a fresh one
(R13, D38; log 1): it holds at reset, and every step keeps it. -/

namespace Sys2Proof.Machine

theorem FillDrawn.mono {m n : Nat} (h : m ≤ n) {f : Fill} (k : FillDrawn m f) : FillDrawn n f := by
  cases f
  · trivial
  · exact Nat.lt_of_lt_of_le k h

theorem DrawInv.mono {s : State} (h : DrawInv s) {n : Nat} (hn : s.draws ≤ n) : DrawInv { s with draws := n } :=
  ⟨h.inBuf.mono hn, h.outBuf.mono hn, h.rk.mono hn, Nat.lt_of_lt_of_le h.datapath hn⟩

/-- Drawing the datapath registers afresh keeps the invariant. -/
theorem DrawInv.redraw {s : State} (h : DrawInv s) : DrawInv { s with datapath := s.draws, draws := s.draws + 1 } :=
  ⟨h.inBuf.mono (Nat.le_succ _), h.outBuf.mono (Nat.le_succ _), h.rk.mono (Nat.le_succ _), Nat.lt_succ_self _⟩

theorem DrawInv.issue {s : State} (h : DrawInv s) (o : CmdOutcome) : DrawInv (issue o s) := by
  unfold Machine.issue
  split
  · exact ⟨h.inBuf, h.outBuf, h.rk, h.datapath⟩
  · exact ⟨h.redraw.inBuf, h.redraw.outBuf, h.redraw.rk, h.redraw.datapath⟩

theorem DrawInv.commit {s : State} (h : DrawInv s) (o : CmdOutcome) : DrawInv (commit o s) := by
  rcases o with c | ⟨out, rk, z⟩
  · exact ⟨h.inBuf, h.outBuf, h.rk, h.datapath⟩
  · have hs : DrawInv { s with draws := s.draws + 1 } := h.mono (Nat.le_succ _)
    cases out <;> cases rk <;> cases z <;>
      first
      | exact ⟨h.inBuf, h.outBuf, h.rk, h.datapath⟩
      | exact ⟨h.inBuf, h.outBuf, trivial, h.datapath⟩
      | exact ⟨trivial, trivial, trivial, h.datapath⟩
      | exact ⟨hs.inBuf, Nat.lt_succ_self _, hs.rk, hs.datapath⟩
      | exact ⟨hs.inBuf, Nat.lt_succ_self _, trivial, hs.datapath⟩
      | exact ⟨trivial, trivial, trivial, hs.datapath⟩

theorem DrawInv.complete {s : State} (h : DrawInv s) : DrawInv (complete s) := by
  unfold Machine.complete
  split
  · exact h
  · next o _ =>
    have := (h.commit o).redraw
    exact ⟨this.inBuf, this.outBuf, this.rk, this.datapath⟩

theorem DrawInv.reset (s : State) : DrawInv (resetState s) := by
  refine ⟨?_, ?_, ?_, ?_⟩
  · show s.draws < s.draws + 4; omega
  · show s.draws + 1 < s.draws + 4; omega
  · show s.draws + 2 < s.draws + 4; omega
  · show s.draws + 3 < s.draws + 4; omega

theorem DrawInv.memWrite {s t : State} (h : DrawInv s) {off : Offset} {strb : Strobe} {v : Word}
    (ht : memWrite off strb v s = .next t) : DrawInv t := by
  have ha : ∀ a, DrawInv (answer a s) := fun a => ⟨h.inBuf, h.outBuf, h.rk, h.datapath⟩
  rcases memWrite_cases off strb v s with ⟨_, e⟩ | ⟨_, e⟩
  · cases e.symm.trans ht
    exact ha _
  · have hu := ha (.written .okay)
    generalize answer (.written .okay) s = u at e hu
    have hw : ∀ store base, (∀ i b t, DrawInv t → DrawInv (store i b t)) →
        DrawInv (writeWindow store base strb v u) := fun store base hs =>
      writeWindow_keeps DrawInv hu ⟨hu.inBuf, hu.outBuf, hu.rk, hu.datapath⟩ fun i b t _ k => hs (base + i) b t k
    rcases writeLocation_cases off.toNat strb v u with
        c | c | c | c | ⟨_, c⟩ | ⟨_, _, c⟩ | ⟨_, _, c⟩ | ⟨_, _, c⟩ | ⟨_, c⟩
    · cases (e.trans c.2).symm.trans ht
      exact ⟨hu.inBuf, hu.outBuf, hu.rk, hu.datapath⟩
    · obtain ⟨o, ho⟩ := runWord_eq_issue v u
      cases (e.trans (c.2.trans ho)).symm.trans ht
      exact hu.issue o
    · cases (e.trans c.2).symm.trans ht
      exact ⟨hu.inBuf, hu.outBuf, hu.rk, hu.datapath⟩
    · cases (e.trans c.2).symm.trans ht
      unfold writeInLen
      split <;> exact ⟨hu.inBuf, hu.outBuf, hu.rk, hu.datapath⟩
    · cases (e.trans c).symm.trans ht
      exact hu
    · cases (e.trans c).symm.trans ht
      exact hw _ _ fun _ _ _ k => ⟨k.inBuf, k.outBuf, k.rk, k.datapath⟩
    · cases (e.trans c).symm.trans ht
      exact hw _ _ fun _ _ _ k => ⟨k.inBuf, k.outBuf, k.rk, k.datapath⟩
    · cases (e.trans c).symm.trans ht
      exact hw _ _ fun i b t k => ⟨(Memory.fill_write t.inBuf i b).symm ▸ k.inBuf, k.outBuf, k.rk, k.datapath⟩
    · cases (e.trans c).symm.trans ht
      exact hu

theorem drawInv_at_reset : DrawInv State.reset :=
  ⟨Nat.zero_lt_succ _, Nat.succ_lt_succ (Nat.zero_lt_succ _),
    Nat.succ_lt_succ (Nat.succ_lt_succ (Nat.zero_lt_succ _)), Nat.lt_succ_self _⟩

/-- Every step keeps every free value of the state among those already drawn. -/
theorem step_keeps_drawInv {s t : State} (h : DrawInv s) (ht : step s = .next t) : DrawInv t := by
  have hr : ∀ r, DrawInv { s with events := r } := fun _ => ⟨h.inBuf, h.outBuf, h.rk, h.datapath⟩
  rcases advance_cases s with ⟨_, _, e⟩ | ⟨_, r, _, e⟩ | ⟨_, _, e⟩ | ⟨_, v, r, _, e⟩
  · cases e.symm.trans ht
    exact h
  · cases e.symm.trans ht
    exact .reset _
  · cases e.symm.trans ht
    exact h.complete
  · have hv : serve v { s with events := r } = .next t := e.symm.trans ht
    cases v with
    | read off =>
      obtain ⟨a, n, f⟩ := memRead_frame off { s with events := r }
      cases (congrArg Host.Outcome.next f).symm.trans hv
      have := (hr r).mono (Nat.le_add_right s.draws n)
      exact ⟨this.inBuf, this.outBuf, this.rk, this.datapath⟩
    | write off strb w => exact (hr r).memWrite hv
    | complete =>
      cases hv
      exact (hr r).complete
    | resetAssert =>
      cases hv
      exact ⟨h.inBuf, h.outBuf, h.rk, h.datapath⟩
    | resetRelease =>
      cases hv
      exact hr r

end Sys2Proof.Machine
end

