-- ==== Sys2Proof/Laws/Field.lean ====
section
/-! SUPPORT. xtime and gf_mul are linear over XOR: what the laws of the field and of MixColumns rest on. -/

namespace Sys2Proof.Machine

/-- The shift-and-conditional-XOR form of R120. -/
theorem xtime_eq (a : Byte) : xtime a = (a <<< 1) ^^^ (if a.getLsbD 7 then 0x1B#8 else 0x00#8) := by
  revert a
  decide +kernel

theorem xtime_xor (a b : Byte) : xtime (a ^^^ b) = xtime a ^^^ xtime b := by
  rw [xtime_eq, xtime_eq, xtime_eq, BitVec.shiftLeft_xor_distrib, BitVec.getLsbD_xor]
  cases a.getLsbD 7 <;> cases b.getLsbD 7 <;> simp [BitVec.xor_assoc]
  ac_rfl

theorem xtime_zero : xtime 0x00#8 = 0x00#8 := by decide

/-- The running sum of the multiplier comes out by XOR. -/
theorem gfMulFrom_acc (b : Byte) (n : Nat) (a p : Byte) : gfMulFrom b n a p = p ^^^ gfMulFrom b n a 0x00#8 := by
  induction n generalizing a p with
  | zero => simp [gfMulFrom]
  | succ n ih =>
    rw [gfMulFrom, gfMulFrom, ih, ih (xtime a) (if b.getLsbD (7 - n) then 0x00#8 ^^^ a else 0x00#8)]
    split <;> simp [BitVec.xor_assoc]

theorem gfMulFrom_xor_left (b : Byte) (n : Nat) (a a' : Byte) :
    gfMulFrom b n (a ^^^ a') 0x00#8 = gfMulFrom b n a 0x00#8 ^^^ gfMulFrom b n a' 0x00#8 := by
  induction n generalizing a a' with
  | zero => simp [gfMulFrom]
  | succ n ih =>
    rw [gfMulFrom, gfMulFrom, gfMulFrom, gfMulFrom_acc, gfMulFrom_acc b n (xtime a),
      gfMulFrom_acc b n (xtime a'), xtime_xor, ih]
    split <;> simp only [BitVec.zero_xor]
    all_goals ac_rfl

theorem gfMulFrom_xor_right (b b' : Byte) (n : Nat) (a : Byte) :
    gfMulFrom (b ^^^ b') n a 0x00#8 = gfMulFrom b n a 0x00#8 ^^^ gfMulFrom b' n a 0x00#8 := by
  induction n generalizing a with
  | zero => simp [gfMulFrom]
  | succ n ih =>
    rw [gfMulFrom, gfMulFrom, gfMulFrom, gfMulFrom_acc, gfMulFrom_acc b n, gfMulFrom_acc b' n, ih,
      BitVec.getLsbD_xor]
    cases b.getLsbD (7 - n) <;> cases b'.getLsbD (7 - n) <;> simp <;> first | ac_rfl | skip
    rw [show ∀ x y z : Byte, x ^^^ y ^^^ (x ^^^ z) = (x ^^^ x) ^^^ (y ^^^ z) from fun x y z => by ac_rfl]
    simp

/-- `gf_mul` distributes over XOR on the left. -/
theorem gfMul_xor_left (a a' b : Byte) : gfMul (a ^^^ a') b = gfMul a b ^^^ gfMul a' b :=
  gfMulFrom_xor_left b 8 a a'

/-- `gf_mul` distributes over XOR on the right. -/
theorem gfMul_xor_right (a b b' : Byte) : gfMul a (b ^^^ b') = gfMul a b ^^^ gfMul a b' :=
  gfMulFrom_xor_right b b' 8 a

end Sys2Proof.Machine
end

