-- ==== Sys2Proof/Laws/PerInstr.lean ====
section
/-! SUPPORT. The opcode map of R94 and R95, constructor by constructor: under the mask of the fields OP, RES0
and RES1 (R90) a command's word is its row's match value, whatever BSZ is. -/

namespace Sys2Proof.Laws

open Sys2Proof

/-- The bits of OP, RES0 and RES1 in a command word (R90). -/
def MaskMatch.mask : Word := 0xFF0000FF#32

/-- The match value of a command's row in spec/opcode_table.json. -/
def MaskMatch.row : Instr → Word
  | .nop _ => 0x00000000#32
  | .keyExpand _ => 0x00000001#32
  | .encBlock _ => 0x00000002#32
  | .decBlock _ => 0x00000003#32
  | .cbcEnc _ => 0x00000004#32
  | .cbcDec _ => 0x00000005#32
  | .cbcEncNoPad _ => 0x00000006#32
  | .cbcDecNoPad _ => 0x00000007#32
  | .pad _ => 0x00000008#32
  | .unpad _ => 0x00000009#32
  | .zeroize _ => 0x0000000A#32
  | .reservedB _ => 0x0000000B#32
  | .reservedC _ => 0x0000000C#32
  | .reservedD _ => 0x0000000D#32
  | .reservedE _ => 0x0000000E#32
  | .reservedF _ => 0x0000000F#32

/-- The command's word, outside its block size, is its row's match value. -/
def MaskMatch.Statement (i : Instr) : Prop := encode i &&& MaskMatch.mask = MaskMatch.row i

/-- The mask keeps OP and the two zero fields, and drops BSZ. -/
theorem MaskMatch.masked_word (b : BitVec 16) (op : BitVec 4) :
    (0#8 ++ b ++ 0#4 ++ op) &&& MaskMatch.mask = op.setWidth 32 := by
  apply BitVec.eq_of_getLsbD_eq
  intro i hi
  have hm : ∀ k, k < 32 → MaskMatch.mask.getLsbD k = (decide (k < 8) || decide (24 ≤ k)) := by decide
  rw [BitVec.getLsbD_and, hm i hi]
  simp only [BitVec.getLsbD_append, BitVec.getLsbD_setWidth, BitVec.getLsbD_zero]
  by_cases h4 : i < 4
  · simp [h4, hi]; omega
  · have h0 : op.getLsbD i = false := BitVec.getLsbD_of_ge op i (by omega)
    by_cases h8 : i < 8
    · simp [h4, h0, show i - 4 < 4 by omega]
    · by_cases h24 : i < 24
      · simp [h0, h8, show ¬ 24 ≤ i by omega]
      · simp [h4, h0, show ¬ i - 4 < 4 by omega, show ¬ i - 4 - 4 < 16 by omega]

theorem MaskMatch.nop (b : Nat) : MaskMatch.Statement (.nop b) := MaskMatch.masked_word _ _
theorem MaskMatch.keyExpand (b : Nat) : MaskMatch.Statement (.keyExpand b) := MaskMatch.masked_word _ _
theorem MaskMatch.encBlock (b : Nat) : MaskMatch.Statement (.encBlock b) := MaskMatch.masked_word _ _
theorem MaskMatch.decBlock (b : Nat) : MaskMatch.Statement (.decBlock b) := MaskMatch.masked_word _ _
theorem MaskMatch.cbcEnc (b : Nat) : MaskMatch.Statement (.cbcEnc b) := MaskMatch.masked_word _ _
theorem MaskMatch.cbcDec (b : Nat) : MaskMatch.Statement (.cbcDec b) := MaskMatch.masked_word _ _
theorem MaskMatch.cbcEncNoPad (b : Nat) : MaskMatch.Statement (.cbcEncNoPad b) := MaskMatch.masked_word _ _
theorem MaskMatch.cbcDecNoPad (b : Nat) : MaskMatch.Statement (.cbcDecNoPad b) := MaskMatch.masked_word _ _
theorem MaskMatch.pad (b : Nat) : MaskMatch.Statement (.pad b) := MaskMatch.masked_word _ _
theorem MaskMatch.unpad (b : Nat) : MaskMatch.Statement (.unpad b) := MaskMatch.masked_word _ _
theorem MaskMatch.zeroize (b : Nat) : MaskMatch.Statement (.zeroize b) := MaskMatch.masked_word _ _
theorem MaskMatch.reservedB (b : Nat) : MaskMatch.Statement (.reservedB b) := MaskMatch.masked_word _ _
theorem MaskMatch.reservedC (b : Nat) : MaskMatch.Statement (.reservedC b) := MaskMatch.masked_word _ _
theorem MaskMatch.reservedD (b : Nat) : MaskMatch.Statement (.reservedD b) := MaskMatch.masked_word _ _
theorem MaskMatch.reservedE (b : Nat) : MaskMatch.Statement (.reservedE b) := MaskMatch.masked_word _ _
theorem MaskMatch.reservedF (b : Nat) : MaskMatch.Statement (.reservedF b) := MaskMatch.masked_word _ _

end Sys2Proof.Laws
end

