-- ==== Sys2Proof/Tests/Slice0.lean ====
section
/-! SUPPORT. The model's own tests and the witnesses of its statements. Expected values come from spec/: the
worked examples of the rules and the vectors V1, V2 of 95_test_vectors.md, named at each test. -/

namespace Sys2Proof.Tests

open Sys2Proof Sys2Proof.Machine

/-! ### Small states -/

/-- The key 000102..0F of V1.1. -/
def key1 : Block := blockFrom (fun i => BitVec.ofNat 8 i) 0

/-- The key 2B7E1516.. of V1.2. -/
def key2 : Block := ⟨⟨0x2B, 0x7E, 0x15, 0x16⟩, ⟨0x28, 0xAE, 0xD2, 0xA6⟩, ⟨0xAB, 0xF7, 0x15, 0x88⟩,
  ⟨0x09, 0xCF, 0x4F, 0x3C⟩⟩

/-- The plaintext of V1.1. -/
def plain1 : List Byte := [0x00, 0x11, 0x22, 0x33, 0x44, 0x55, 0x66, 0x77, 0x88, 0x99, 0xAA, 0xBB, 0xCC,
  0xDD, 0xEE, 0xFF]

/-- The ciphertext of V1.1. -/
def cipher1 : List Byte := [0x69, 0xC4, 0xE0, 0xD8, 0x6A, 0x7B, 0x04, 0x30, 0xD8, 0xCD, 0xB7, 0x80, 0x70,
  0xB4, 0xC5, 0x5A]

/-- CBC_ENC of "abc" under key1 and the zero IV (V2.6). -/
def cipherAbc : List Byte := [0xB0, 0x8B, 0x1F, 0x80, 0x9A, 0x03, 0x50, 0x64, 0x42, 0x0D, 0x1D, 0x75, 0x40,
  0x22, 0xAB, 0x55]

/-- "abc" and its pad (R240). -/
def paddedAbc : List Byte := [0x61, 0x62, 0x63] ++ List.replicate 13 0x0D#8

/-- The first two blocks of the plaintext of V1.2. -/
def plain2 : List Byte := [0x6B, 0xC1, 0xBE, 0xE2, 0x2E, 0x40, 0x9F, 0x96, 0xE9, 0x3D, 0x7E, 0x11, 0x73,
  0x93, 0x17, 0x2A, 0xAE, 0x2D, 0x8A, 0x57, 0x1E, 0x03, 0xAC, 0x9C, 0x9E, 0xB7, 0x6F, 0xAC, 0x45, 0xAF,
  0x8E, 0x51]

/-- The first two blocks of the ciphertext of V1.2. -/
def cipher2 : List Byte := [0x76, 0x49, 0xAB, 0xAC, 0x81, 0x19, 0xB2, 0x46, 0xCE, 0xE9, 0x8E, 0x9B, 0x12,
  0xE9, 0x19, 0x7D, 0x50, 0x86, 0xCB, 0x9B, 0x50, 0x72, 0x19, 0xEE, 0x95, 0xDB, 0x11, 0x3A, 0x91, 0x76,
  0x78, 0xB2]

/-- After reset, with input bytes and their length loaded. No schedule. -/
def given (d : List Byte) : State :=
  { State.reset with inBuf := Memory.ofBytes .zero d, inLen := BitVec.ofNat 32 d.length }

/-- `given d`, with the schedule of a key. -/
def keyed (k : Block) (d : List Byte) : State :=
  { given d with keyv := true, rk := Memory.ofBytes .zero (keyExpansion k) }

/-- A keyed state with buffers of 16 bytes and `n` as its input length, for the edges of R9 and R300. -/
def sized (n : Nat) : State :=
  { keyed key1 [] with bufBytes := 16, inLen := BitVec.ofNat 32 n }

/-- Reset, with an outcome in flight. -/
def inFlight (o : CmdOutcome) : State := { State.reset with phase := .busy o }

/-- Reset, held. -/
def held : State := { State.reset with inReset := true, ie := true, done := true }

/-- What an outcome's next state is; the state itself where there is none. -/
def nextOr (s : State) : Host.Outcome State Fault Refusal → State
  | .next t => t
  | .fault _ => s
  | .refused _ => s

/-- The state at the completion of the command, written on `s`. -/
def ran (i : Instr) (s : State) : State := complete (nextOr s (exec i s))

/-- CODE, OUT_LEN and the result bytes. -/
def result (s : State) : ErrCode × Nat × List Byte :=
  (s.errcode, s.outLen.toNat, s.outBuf.bytes s.outLen.toNat)

/-! ### Well-formedness -/

/-- R92: BSZ has 16 bits, so a block size of 65536 has no word; 65535 has one. -/
theorem test_wellFormed : ¬ (Instr.pad 65536).WellFormed ∧ (Instr.pad 65535).WellFormed := by decide

/-! ### Decoding: words written out bit by bit from R90 and R94: RES1, BSZ, RES0, OP -/

theorem test_decode_controller :
    decode 0b00000000_0000000000000000_0000_0000#32 = .ok (.nop 0) ∧
    decode 0b00000000_0000000000000000_0000_1010#32 = .ok (.zeroize 0) := by decide

theorem test_decode_key : decode 0b00000000_0000000000010000_0000_0001#32 = .ok (.keyExpand 16) := by decide

theorem test_decode_block :
    decode 0b00000000_0000000000000000_0000_0010#32 = .ok (.encBlock 0) ∧
    decode 0b00000000_0000000000000000_0000_0011#32 = .ok (.decBlock 0) := by decide

theorem test_decode_cbc :
    decode 0b00000000_0000000000000000_0000_0100#32 = .ok (.cbcEnc 0) ∧
    decode 0b00000000_0000000000000000_0000_0101#32 = .ok (.cbcDec 0) ∧
    decode 0b00000000_0000000000000000_0000_0110#32 = .ok (.cbcEncNoPad 0) ∧
    decode 0b00000000_0000000000000000_0000_0111#32 = .ok (.cbcDecNoPad 0) := by decide

theorem test_decode_padding :
    decode 0b00000000_0000000000010000_0000_1000#32 = .ok (.pad 16) ∧
    decode 0b00000000_1000000000000001_0000_1001#32 = .ok (.unpad 32769) := by decide

theorem test_decode_reserved :
    decode 0b00000000_0000000000000000_0000_1011#32 = .ok (.reservedB 0) ∧
    decode 0b00000000_0000000000000000_0000_1100#32 = .ok (.reservedC 0) ∧
    decode 0b00000000_0000000000000000_0000_1101#32 = .ok (.reservedD 0) ∧
    decode 0b00000000_0000000000000000_0000_1110#32 = .ok (.reservedE 0) ∧
    decode 0b00000000_0000000000000000_0000_1111#32 = .ok (.reservedF 0) := by decide

/-- R93: the lowest and the highest bit of each reserved field. -/
theorem test_decode_reserved_fields :
    decode 0b00000000_0000000000000000_0001_0000#32 = .error .res0NotZero ∧
    decode 0b00000000_0000000000000000_1000_0001#32 = .error .res0NotZero ∧
    decode 0b00000001_0000000000000000_0000_0010#32 = .error .res1NotZero ∧
    decode 0b10000000_0000000000000000_0000_1111#32 = .error .res1NotZero := by decide

/-- R99: the encoder gives the words of 95_test_vectors.md. -/
theorem test_encode :
    encode (.pad 8) = 0x00000808#32 ∧ encode (.unpad 0) = 0x00000009#32 ∧
    encode (.zeroize 0) = 0x0000000A#32 ∧ encode (.pad 255) = 0x0000FF08#32 := by decide

theorem test_decodeTableWord :
    decodeTableWord 32 0x00001008 = some (.pad 16) ∧ decodeTableWord 32 0x01000002 = none ∧
    decodeTableWord 40 0x00000002 = none := by decide

/-! ### The field, the tables and the transforms (V2.1, V2.2, V2.3, V2.4) -/

theorem test_xtime : xtime 0x57 = 0xAE ∧ xtime 0x80 = 0x1B ∧ xtime 0xFF = 0xE5 ∧ xtime 0x7F = 0xFE := by decide

theorem test_gfMul :
    gfMul 0x57 0x83 = 0xC1 ∧ gfMul 0xFF 0xFF = 0x13 ∧ gfMul 0x0E 0x0B = 0x62 ∧ gfMul 0x09 0x0D = 0x65 := by
  decide

theorem test_sbox :
    sbox 0x00 = 0x63 ∧ sbox 0x10 = 0xCA ∧ sbox 0x53 = 0xED ∧ sbox 0xFF = 0x16 ∧
    invSbox 0x00 = 0x52 ∧ invSbox 0x16 = 0xFF ∧ invSbox 0xED = 0x53 := by decide

/-- R124: the table is a permutation, its entries sum to 32640, and no byte is a fixed point. -/
theorem test_sbox_table :
    ((List.range 256).map fun i => (sbox (BitVec.ofNat 8 i)).toNat).sum = 32640 ∧
    ((List.range 256).map fun i => sbox (BitVec.ofNat 8 i)).Nodup ∧
    ((List.range 256).all fun i => sbox (BitVec.ofNat 8 i) != BitVec.ofNat 8 i) = true := by decide +kernel

/-- R141: each round constant is the double of the one before it. -/
theorem test_rcon : ∀ j : Fin 9, rcon (j + 2) = xtime (rcon (j + 1)) := by decide

/-- The word step of V2.3: RotWord, SubWord and the round constant. -/
theorem test_scheduleTemp : scheduleTemp 4 ⟨0x09, 0xCF, 0x4F, 0x3C⟩ = ⟨0x8B, 0x84, 0xEB, 0x01⟩ := by decide

theorem test_mixColumn :
    mixColumn ⟨0xDB, 0x13, 0x53, 0x45⟩ = ⟨0x8E, 0x4D, 0xA1, 0xBC⟩ ∧
    mixColumn ⟨0x80, 0x00, 0x00, 0x00⟩ = ⟨0x1B, 0x80, 0x80, 0x9B⟩ ∧
    invMixColumn ⟨0x8E, 0x4D, 0xA1, 0xBC⟩ = ⟨0xDB, 0x13, 0x53, 0x45⟩ := by decide

theorem test_shiftRows :
    blockBytes (shiftRows key1) =
      [0x00, 0x05, 0x0A, 0x0F, 0x04, 0x09, 0x0E, 0x03, 0x08, 0x0D, 0x02, 0x07, 0x0C, 0x01, 0x06, 0x0B] ∧
    blockBytes (invShiftRows key1) =
      [0x00, 0x0D, 0x0A, 0x07, 0x04, 0x01, 0x0E, 0x0B, 0x08, 0x05, 0x02, 0x0F, 0x0C, 0x09, 0x06, 0x03] := by
  decide

/-! ### The commands -/

/-- R266: with IE = 1 a NOP ends with STATUS = 2 and irq = 1. -/
theorem test_nop :
    statusWord (ran (.nop 0) { State.reset with ie := true }) = 0x00000002#32 ∧
    irq (ran (.nop 0) { State.reset with ie := true }) = true := by decide

/-- R145, V2.8: RK[160..176), KEYV, and STATUS = DONE and KEYV. -/
theorem test_keyExpand :
    roundKey (rkIn (ran (.keyExpand 16) { State.reset with key := key1 })) 10 =
      ⟨⟨0x13, 0x11, 0x1D, 0x7F⟩, ⟨0xE3, 0x94, 0x4A, 0x17⟩, ⟨0xF3, 0x07, 0xA7, 0x8B⟩,
        ⟨0x4D, 0x2B, 0x30, 0xC5⟩⟩ ∧
    statusWord (ran (.keyExpand 16) { State.reset with key := key1 }) = 0x0000000A#32 := by decide +kernel

/-- V1.1. -/
theorem test_encBlock : result (ran (.encBlock 0) (keyed key1 plain1)) = (.none, 16, cipher1) := by
  decide +kernel

/-- V2.8: ENC_BLOCK after reset. -/
theorem test_encBlock_no_key : statusWord (ran (.encBlock 0) State.reset) = 0x00000006#32 ∧
    (ran (.encBlock 0) State.reset).errcode = .keyNotReady := by decide

/-- V1.1. -/
theorem test_decBlock : result (ran (.decBlock 0) (keyed key1 cipher1)) = (.none, 16, plain1) := by
  decide +kernel

/-- V2.6: CBC_ENC of "abc". -/
theorem test_cbcEnc : result (ran (.cbcEnc 0) (keyed key1 [0x61, 0x62, 0x63])) = (.none, 16, cipherAbc) := by
  decide +kernel

/-- R212: IN_LEN = 0 gives one block of padding, encrypted with the IV. -/
theorem test_cbcEnc_empty :
    result (ran (.cbcEnc 0) { keyed key2 [] with iv := key1 }) = (.none, 16,
      [0xC8, 0x4A, 0xF0, 0xB6, 0x13, 0x43, 0x5D, 0x5D, 0x91, 0x82, 0x80, 0x1A, 0x9B, 0xD9, 0x32, 0x0B]) := by
  decide +kernel

/-- V2.6: CBC_DEC gives "abc" back. -/
theorem test_cbcDec :
    result (ran (.cbcDec 0) (keyed key1 cipherAbc)) = (.none, 3, [0x61, 0x62, 0x63]) := by decide +kernel

/-- V2.6: with the last byte corrupted, INVALID_PADDING, and OUT_LEN as before. -/
theorem test_cbcDec_corrupt :
    let s := ran (.cbcDec 0) { keyed key1 (cipherAbc.take 15 ++ [0x54#8]) with outLen := 3 }
    s.errcode = .invalidPadding ∧ s.outLen = 3 := by decide +kernel

/-- V1.2, its first two blocks (R210: a block depends on no later one). -/
theorem test_cbcEncNoPad :
    result (ran (.cbcEncNoPad 0) { keyed key2 plain2 with iv := key1 }) = (.none, 32, cipher2) := by
  decide +kernel

/-- V1.2, its first two blocks. -/
theorem test_cbcDecNoPad :
    result (ran (.cbcDecNoPad 0) { keyed key2 cipher2 with iv := key1 }) = (.none, 32, plain2) := by
  decide +kernel

/-- V2.7: PAD with block size 8 of eight bytes gives a full block of 08. -/
theorem test_pad : result (ran (.pad 8) (given [1, 2, 3, 4, 5, 6, 7, 8])) = (.none, 16,
    [1, 2, 3, 4, 5, 6, 7, 8, 8, 8, 8, 8, 8, 8, 8, 8]) := by decide +kernel

/-- R303: PAD with BSZ = 0 and IN_LEN = 0xFFFFFFFF reports LENGTH_RANGE. -/
theorem test_pad_priority :
    (ran (.pad 0) { State.reset with inLen := 0xFFFFFFFF#32 }).errcode = .lengthRange := by decide

/-- V2.7: 05050505 030303 with block size 7. -/
theorem test_unpad : result (ran (.unpad 7) (given [5, 5, 5, 5, 3, 3, 3])) = (.none, 4, [5, 5, 5, 5]) := by
  decide +kernel

/-- R303, V2.8: UNPAD with BSZ = 0 and IN_LEN = 0 reports INVALID_BLOCK_SIZE; with BSZ = 16, INVALID_PADDING. -/
theorem test_unpad_priority :
    (ran (.unpad 0) State.reset).errcode = .invalidBlockSize ∧
    (ran (.unpad 16) State.reset).errcode = .invalidPadding := by decide

/-- R267: after ZEROIZE a read of 0x1000 returns 0, STATUS reads 2, and ENC_BLOCK ends with code 2. -/
theorem test_zeroize :
    let s := ran (.zeroize 0) (keyed key1 plain1)
    (memRead 0x1000#14 s).answers = [.read 0 .okay] ∧ statusWord s = 0x00000002#32 ∧
    (ran (.encBlock 0) s).errcode = .keyNotReady := by decide +kernel

/-- V2.8: the reserved opcodes end with code 1. -/
theorem test_reserved :
    (ran (.reservedB 0) State.reset).errcode = .illegalCmd ∧
    (ran (.reservedC 0) State.reset).errcode = .illegalCmd ∧
    (ran (.reservedD 0) State.reset).errcode = .illegalCmd ∧
    (ran (.reservedE 0) State.reset).errcode = .illegalCmd ∧
    (ran (.reservedF 0) State.reset).errcode = .illegalCmd := by decide

/-- V2.8: 0x00000012 and 0x01000001 end with code 1, and KEYV is unchanged. -/
theorem test_reserved_fields :
    (complete (nextOr State.reset (runWord 0x00000012#32 State.reset))).errcode = .illegalCmd ∧
    (complete (nextOr State.reset (runWord 0x01000001#32 State.reset))).keyv = false := by decide

/-! ### The bus (R62, V2.9) -/

/-- A key word's lanes: WR 0x020, 0x03020100. -/
theorem test_write_key :
    ((nextOr State.reset (memWrite 0x020#14 0b1111#4 0x03020100#32 State.reset)).key.c0 = ⟨0, 1, 2, 3⟩) := by
  decide

/-- WRB 0x1000, 0xDDCCBBAA, 0b0101 stores lanes 0 and 2 only. -/
theorem test_write_strobes :
    (nextOr State.reset (memWrite 0x1000#14 0b0101#4 0xDDCCBBAA#32 (given [1, 2, 3, 4]))).inBuf.bytes 4 =
      [0xAA, 2, 0xCC, 4] := by decide

/-- RD 0x000, RD 0x01C, RD 0x002 and RD 0x040. -/
theorem test_reads :
    (memRead 0x000#14 State.reset).answers = [.read 0x41455331 .okay] ∧
    (memRead 0x01C#14 State.reset).answers = [.read 0x00001000 .okay] ∧
    (memRead 0x002#14 State.reset).answers = [.read 0 .error] ∧
    (memRead 0x040#14 State.reset).answers = [.read 0 .error] := by decide

/-- WRB 0x014, 5, 0b0011 gets ERROR; WR 0x014, v while busy sets WIB. -/
theorem test_write_inLen :
    (nextOr State.reset (memWrite 0x014#14 0b0011#4 5#32 State.reset)).answers = [.written .error] ∧
    (nextOr State.reset (memWrite 0x014#14 0b1111#4 5#32 (inFlight outcomeNop))).wib = true := by decide

/-- WR 0x00C, 0x00000012 clears DONE and WIB. -/
theorem test_write_status :
    (statusWord (nextOr State.reset (memWrite 0x00C#14 0b1111#4 0x00000012#32
      { State.reset with done := true, wib := true })) = 0) := by decide

/-- The race of 95_test_vectors.md P5, in both its orders: an IN_LEN write before, and after, the completion of
KEY_EXPAND. -/
theorem test_race :
    let s := nextOr State.reset (exec (.keyExpand 0) State.reset)
    let before := complete (nextOr s (memWrite 0x014#14 0b1111#4 0x20#32 s))
    let after := nextOr s (memWrite 0x014#14 0b1111#4 0x20#32 (complete s))
    (statusWord before = 0x0000001A ∧ before.inLen = 0) ∧ (statusWord after = 0x0000000A ∧ after.inLen = 0x20) := by
  decide +kernel

/-! ### Placing a command -/

/-- The very next step runs the word placed, from reset, from a busy core and from a core in reset. -/
theorem test_withFetchWord :
    (nextOr State.reset (step (State.reset.withFetchWord 32 0x00000008))).phase =
      .busy (.fail .invalidBlockSize) ∧
    (nextOr State.reset (step ((inFlight outcomeNop).withFetchWord 32 0x0000000A))).phase =
      .busy outcomeZeroize ∧
    (nextOr State.reset (step (held.withFetchWord 32 0x0000000B))).phase = .busy outcomeIllegal := by decide

/-- P1 begins so: four key words, KEY_EXPAND and WAIT, as the events of a host program (R98, R100). -/
theorem test_host_key_setup :
    hostKeySetup key1 1 = [.write 0x020#14 0b1111#4 0x03020100#32, .write 0x024#14 0b1111#4 0x07060504#32,
      .write 0x028#14 0b1111#4 0x0B0A0908#32, .write 0x02C#14 0b1111#4 0x0F0E0D0C#32,
      .write 0x008#14 0b1111#4 0x00000001#32, .read 0x00C#14, .complete, .read 0x00C#14] := by decide

/-- P3's LDBUF of "abc" is WRB 0x1000, 0x00636261, 0b0111, then WR 0x014, 3. -/
theorem test_host_load :
    hostEvents (ldBuf [0x61, 0x62, 0x63]) =
      [.write 0x1000#14 0b0111#4 0x00636261#32, .write 0x014#14 0b1111#4 0x00000003#32] := by decide

/-! ### Witnesses: states and operands that meet the hypotheses of the statements, clause by clause -/

theorem witness_DecodeAndEncodeAgree :
    (Instr.pad 65535).WellFormed ∧ (Instr.reservedF 0).WellFormed ∧ decode 0x00FFFF09#32 = .ok (.unpad 65535) := by
  decide

theorem witness_BlockSizeFieldAndItsUse :
    decode 0x00FFFF08#32 = .ok (.pad 65535) ∧ State.reset.phase = .idle ∧
    lengthIn State.reset ≤ State.reset.bufBytes ∧ lengthIn (sized 16) = (sized 16).bufBytes ∧ 255 < 256 := by decide

theorem witness_StepRunsTheWrittenCommand :
    State.reset.inReset = false ∧ Config.legalBufBytes State.reset.bufBytes ∧
    Config.legalBufBytes (sized 0).bufBytes ∧ decode 0x00001008#32 = .ok (.pad 16) := by decide

theorem witness_BusyCoreDropsACommand : (inFlight outcomeNop).phase = .busy outcomeNop := by decide

/-- With and without a completion among the coming events. -/
theorem witness_CommandInFlightCompletes :
    let s := inFlight outcomeZeroize
    s.inReset = false ∧ s.phase = .busy outcomeZeroize ∧ .resetAssert ∉ s.events ∧
    .resetAssert ∉ { s with events := [.read 0x00C#14, .complete] }.events := by decide

theorem witness_NopOnlyCompletes :
    let s := { State.reset with ie := true }
    s.phase = .idle ∧ s.ie = true ∧ s.inReset = false ∧ opField 0#32 = 0x0 ∧ res0Field 0#32 = 0 ∧ res1Field 0#32 = 0 := by
  decide

theorem witness_ZeroizeClearsTheCore :
    State.reset.phase = .idle ∧ opField 0x0000000A#32 = 0xA ∧ res0Field 0x0000000A#32 = 0 ∧
    res1Field 0x0000000A#32 = 0 := by decide

theorem witness_ReservedCommandsAreIllegal :
    State.reset.phase = .idle ∧ res0Field 0x00000010#32 ≠ 0 ∧ res1Field 0x80000000#32 ≠ 0 ∧
    opField 0x0000000B#32 = 0xB ∧ opField 0x0000000F#32 = 0xF := by decide

theorem witness_KeyExpandLoadsTheSchedule : State.reset.phase = .idle ∧ opField 0x00000001#32 = 0x1 := by decide

theorem witness_EncBlockOutputsTheCiphertext :
    State.reset.phase = .idle ∧ State.reset.keyv = false ∧ (sized 0).phase = .idle ∧ (sized 0).keyv = true := by decide

theorem witness_DecBlockOutputsThePlaintext :
    State.reset.phase = .idle ∧ State.reset.keyv = false ∧ (sized 17).phase = .idle ∧ (sized 17).keyv = true := by decide

theorem legal16 : Config.legalBufBytes 16 := by decide

/-- The edges of IN_LEN about BUF_BYTES = 16. -/
theorem witness_CbcEncPadsAndChains :
    State.reset.phase = .idle ∧ State.reset.keyv = false ∧ Config.legalBufBytes State.reset.bufBytes ∧
    (∀ n : Nat, (sized n).phase = .idle ∧ (sized n).keyv = true ∧ Config.legalBufBytes (sized n).bufBytes) ∧
    (sized 17).bufBytes < lengthIn (sized 17) ∧ lengthIn (sized 16) = (sized 16).bufBytes ∧
    lengthIn (sized 15) < (sized 15).bufBytes ∧ lengthIn (sized 0) < (sized 0).bufBytes :=
  ⟨rfl, rfl, by decide, fun _ => ⟨rfl, rfl, legal16⟩, by decide, by decide, by decide, by decide⟩

theorem decrypted_abc : cbcDecryptBlocks (rkIn (keyed key1 cipherAbc)) (keyed key1 cipherAbc).iv
    (dataIn (keyed key1 cipherAbc)) = paddedAbc := by decide +kernel

theorem goodPad_abc : GoodPad paddedAbc 16 := by
  refine ⟨by decide, by decide, by decide, fun i h1 h2 => ?_⟩
  rw [show paddedAbc.length - claimedPad paddedAbc = 3 by decide] at h1
  rw [show paddedAbc.length = 16 by decide] at h2
  interval_cases i <;> decide

/-- A good pad, from V2.6. -/
theorem witness_CbcDecChainsAndUnpads_good :
    let s := keyed key1 cipherAbc
    s.phase = .idle ∧ s.keyv = true ∧ lengthIn s ≤ s.bufBytes ∧ 0 < lengthIn s ∧ lengthIn s % 16 = 0 ∧
      GoodPad (cbcDecryptBlocks (rkIn s) s.iv (dataIn s)) 16 :=
  ⟨rfl, rfl, by decide, by decide, by decide, decrypted_abc.symm ▸ goodPad_abc⟩

/-- A bad pad, from V2.6: the last byte decrypts to 0x78. -/
theorem witness_CbcDecChainsAndUnpads_bad :
    let s := keyed key1 (cipherAbc.take 15 ++ [0x54#8])
    s.phase = .idle ∧ s.keyv = true ∧ lengthIn s ≤ s.bufBytes ∧ 0 < lengthIn s ∧ lengthIn s % 16 = 0 ∧
      ¬ GoodPad (cbcDecryptBlocks (rkIn s) s.iv (dataIn s)) 16 := by
  refine ⟨rfl, rfl, by decide, by decide, by decide, fun h => ?_⟩
  exact absurd h.2.1 (by decide +kernel)

/-- The clauses of CBC_DEC, CBC_ENC_NOPAD and CBC_DEC_NOPAD but for the pad, at the edges about BUF_BYTES = 16. -/
theorem witness_CbcNoPadClauses :
    State.reset.phase = .idle ∧ State.reset.keyv = false ∧
    (∀ n : Nat, (sized n).phase = .idle ∧ (sized n).keyv = true) ∧
    (sized 17).bufBytes < lengthIn (sized 17) ∧ lengthIn (sized 0) = 0 ∧
    (lengthIn (sized 15) ≤ (sized 15).bufBytes ∧ lengthIn (sized 15) % 16 ≠ 0) ∧
    (lengthIn (sized 16) ≤ (sized 16).bufBytes ∧ 0 < lengthIn (sized 16) ∧ lengthIn (sized 16) % 16 = 0) :=
  ⟨rfl, rfl, fun _ => ⟨rfl, rfl⟩, by decide, by decide, by decide, by decide⟩

/-- With BUF_BYTES = 16: too long; block sizes 0 and 256; overflow by one byte; an exact fit; block size 1. -/
theorem witness_PadAppendsThePad :
    (∀ n : Nat, (sized n).phase = .idle ∧ Config.legalBufBytes (sized n).bufBytes) ∧
    (sized 17).bufBytes < lengthIn (sized 17) ∧ lengthIn (sized 16) ≤ (sized 16).bufBytes ∧ 255 < 256 ∧
    (sized 0).bufBytes < lengthIn (sized 0) + (17 - lengthIn (sized 0) % 17) ∧
    lengthIn (sized 0) + (16 - lengthIn (sized 0) % 16) ≤ (sized 0).bufBytes ∧
    lengthIn (sized 15) + (1 - lengthIn (sized 15) % 1) ≤ (sized 15).bufBytes :=
  ⟨fun _ => ⟨rfl, legal16⟩, by decide, by decide, by decide, by decide, by decide, by decide⟩

/-- Block sizes 1 and 255 at the ends of their range; a good pad of V2.7 (01, block size 1). -/
theorem witness_UnpadStripsThePad_good :
    let s := given [0x01#8]
    s.phase = .idle ∧ lengthIn s ≤ s.bufBytes ∧ 0 < lengthIn s ∧ lengthIn s % 1 = 0 ∧ GoodPad (dataIn s) 1 := by
  refine ⟨rfl, by decide, by decide, by decide, by decide, by decide, by decide, fun i h1 h2 => ?_⟩
  have : i = 0 := by
    have : (dataIn (given [0x01#8])).length = 1 := by decide
    omega
  subst this
  decide

theorem witness_UnpadStripsThePad_bad :
    (sized 17).bufBytes < lengthIn (sized 17) ∧ lengthIn (sized 0) = 0 ∧ lengthIn (sized 16) % 255 ≠ 0 ∧
    lengthIn (sized 16) % 16 = 0 ∧ ¬ GoodPad (dataIn (sized 16)) 16 :=
  ⟨by decide, by decide, by decide, by decide, fun h => absurd h.1 (by decide)⟩

theorem witness_LowestErrorCodeIsReported :
    State.reset.phase = .idle ∧ errorHolds (.unpad 0) State.reset .invalidBlockSize :=
  ⟨rfl, .inr rfl, .inl rfl⟩

theorem witness_FailureHasNoSideEffect :
    State.reset.phase = .idle ∧ (complete (nextOr State.reset (exec (.reservedB 0) State.reset))).errcode ≠ .none := by
  decide

/-- A schedule, a clearing and an output as results. -/
theorem witness_ResultsBelongToTheirCommands :
    (∃ t r, exec (.keyExpand 0) State.reset = .next t ∧ t.phase = .busy (.ok r) ∧ r.rk ≠ none) ∧
    (∃ t r, exec (.zeroize 0) State.reset = .next t ∧ t.phase = .busy (.ok r) ∧ r.zeroize = true) ∧
    (∃ t r, exec (.pad 1) State.reset = .next t ∧ t.phase = .busy (.ok r) ∧ r.out ≠ none) :=
  ⟨⟨_, _, rfl, rfl, by simp⟩, ⟨_, _, rfl, rfl, rfl⟩, ⟨_, { out := some [0x01#8], rk := none, zeroize := false },
    rfl, by decide, by simp⟩⟩

theorem witness_FieldLaws : (0x01#8 : Byte) ≠ 0 ∧ (0xFF#8 : Byte) ≠ 0 ∧ gfMul 0xCA 0x53 = 0x01 := by decide

theorem witness_ShiftRowsRotatesTheRows : 0 < 4 ∧ 3 < 4 := by decide

theorem witness_KeyExpansionRecurrence : 4 ≤ 4 ∧ 4 < 44 ∧ 4 % 4 = 0 ∧ 4 ≤ 43 ∧ 43 < 44 ∧ 43 % 4 ≠ 0 := by decide

theorem witness_CbcChains : cipher2.length % 16 = 0 ∧ 0 < cipher2.length / 16 ∧ 1 < cipher2.length / 16 := by decide

/-- Block sizes 0, 1, 255 and 256, for PadReachesTheNextMultiple and UnpadInvertsPad. -/
theorem witness_block_sizes : 0 = 0 ∧ 255 < 256 ∧ 1 ≤ 1 ∧ 1 ≤ 255 ∧ 255 ≤ 255 := by decide

theorem witness_UnpadAcceptsExactlyGoodPads :
    (0 < paddedAbc.length ∧ paddedAbc.length % 16 = 0 ∧ GoodPad paddedAbc 16) ∧
    ¬ (0 < ([] : List Byte).length ∧ ([] : List Byte).length % 255 = 0 ∧ GoodPad [] 255) :=
  ⟨⟨by decide, by decide, goodPad_abc⟩, fun h => absurd h.1 (by decide)⟩

/-- Encrypt "abc", then take the ciphertext as the input of the decryption. -/
theorem witness_PaddedCbcRoundTrip :
    let s := keyed key1 [0x61, 0x62, 0x63]
    let t := ran (.cbcEnc 0) s
    let u := keyed key1 cipherAbc
    s.phase = .idle ∧ s.keyv = true ∧ Config.legalBufBytes s.bufBytes ∧ lengthIn s < s.bufBytes ∧
    u.phase = .idle ∧ u.keyv = true ∧ u.rk = s.rk ∧ u.iv = s.iv ∧ u.bufBytes = s.bufBytes ∧
    u.inLen = t.outLen ∧ dataIn u = t.outBuf.bytes t.outLen.toNat := by
  refine ⟨rfl, rfl, by decide, by decide, rfl, rfl, rfl, rfl, rfl, ?_, ?_⟩ <;> decide +kernel

/-- For StatusBitsAndTheirClearing, BusErrorsAreExactlyThese, ReadsChangeNothing and LdKeyLoadsTheKey. -/
theorem witness_out_of_reset :
    State.reset.inReset = false ∧ Config.legalBufBytes State.reset.bufBytes ∧ State.reset.phase = .idle ∧ 5 ≤ 5 := by
  decide

theorem witness_IrqIsEnableAndDone :
    State.reset.inReset = false ∧ { State.reset with done := true }.done = true ∧
    isBusy { inFlight outcomeNop with ie := true } = true ∧ { inFlight outcomeNop with ie := true }.ie = true := by decide

/-- The first and the last word of each window, with BUF_BYTES at its largest and IV, IN_BUF and OUT_BUF zero. -/
theorem witness_ReadsAnswerTheMappedWord :
    let s := ran (.zeroize 0) State.reset
    s.inReset = false ∧ Config.legalBufBytes s.bufBytes ∧ s.phase = .idle ∧
    (∀ i, i < 4 → (0#32).extractLsb' (8 * i) 8 = blockByte s.iv (0x03C - 0x030 + i)) ∧
    (∀ i, i < 4 → (0#32).extractLsb' (8 * i) 8 = s.inBuf.read (0x1FFC - 0x1000 + i)) ∧
    (∀ i, i < 4 → (0#32).extractLsb' (8 * i) 8 = s.outBuf.read (0x2FFC - 0x2000 + i)) ∧
    0x1FFC < 0x1000 + s.bufBytes ∧ 0x2FFC < 0x2000 + s.bufBytes := by decide

theorem witness_ControlRegisterWrites :
    State.reset.inReset = false ∧ Config.legalBufBytes State.reset.bufBytes ∧ State.reset.phase = .idle ∧
    isBusy (inFlight outcomeNop) = true ∧ (0x01C#14).toNat % 4 = 0 ∧ (0x01C#14).toNat < 0x020 ∧
    (0b0111#4 : Strobe) ≠ 0b1111#4 := by decide

/-- Both ends of the windows, with BUF_BYTES = 16. -/
theorem witness_ByteWindowWrites :
    let s := sized 0
    s.inReset = false ∧ Config.legalBufBytes s.bufBytes ∧ s.inBuf.wf ∧ s.phase = .idle ∧
    isBusy { s with phase := .busy outcomeNop } = true ∧ (0x020#14).toNat % 4 = 0 ∧
    InInputWindow s (0x020#14).toNat ∧ InInputWindow s (0x03C#14).toNat ∧ InInputWindow s (0x1000#14).toNat ∧
    InInputWindow s (0x100C#14).toNat ∧ 0x2000 ≤ (0x200C#14).toNat ∧ (0x200C#14).toNat < 0x2000 + s.bufBytes := by
  refine ⟨rfl, by decide, by decide, rfl, by decide, by decide, ?_, ?_, ?_, ?_, by decide, by decide⟩ <;>
    (unfold InInputWindow; decide)

theorem witness_ReadsRevealNoKeyMaterial :
    State.reset.inReset = false ∧ inOutBuf State.reset.bufBytes (0x1FFC#14).toNat = false ∧
    inOutBuf State.reset.bufBytes (0x020#14).toNat = false := by decide

/-- An input that fills the buffer. -/
theorem witness_LdBufLoadsTheInput :
    let s := sized 0
    s.inReset = false ∧ s.phase = .idle ∧ Config.legalBufBytes s.bufBytes ∧ s.inBuf.wf ∧ plain1.length ≤ s.bufBytes ∧
    plain1.length = s.bufBytes := by decide

theorem witness_InputsAreFrozenWhileBusy :
    let s := inFlight outcomeNop
    s.inReset = false ∧ s.phase = .busy outcomeNop ∧ step s = .next (complete s) ∧
    step (before (.write 0x014#14 0b1111#4 5#32) s) =
      .next { s with wib := true, answers := [.written .okay] } := by
  refine ⟨rfl, rfl, rfl, by rfl⟩

theorem witness_ScheduleChangesOnlyAtItsCommits :
    let s := inFlight (.ok { out := none, rk := some (keyExpansion key1), zeroize := false })
    step s = .next (complete s) ∧ (complete s).keyv ≠ s.keyv := by
  refine ⟨rfl, by decide⟩

theorem witness_OutputChangesOnlyAtItsCommits :
    let s := inFlight (okOut plain1)
    step s = .next (complete s) ∧ (complete s).outLen ≠ s.outLen := by
  refine ⟨rfl, by decide⟩

/-- A host write, and the commit of ZEROIZE. -/
theorem witness_InputsChangeOnlyByTheHostOrZeroize :
    (∃ t, step (before (.write 0x014#14 0b1111#4 5#32) State.reset) = .next t ∧ t.inLen ≠ State.reset.inLen) ∧
    (∃ t, step { inFlight outcomeZeroize with inLen := 5#32 } = .next t ∧ t.inLen ≠ 5#32) :=
  ⟨⟨_, rfl, by decide⟩, ⟨_, rfl, by decide⟩⟩

theorem witness_ResetAbortsAndDefines :
    (inFlight outcomeZeroize).inReset = false ∧ (inFlight outcomeZeroize).phase = .busy outcomeZeroize := by decide

/-- A reset that is held, and one whose release comes. -/
theorem witness_NothingIsAnsweredInReset :
    held.inReset = true ∧ step held = .next held ∧
    ∃ t, step { held with events := [.read 0x000#14, .resetRelease] } = .next t ∧ t.events = [.read 0x000#14] :=
  ⟨rfl, rfl, _, rfl, rfl⟩

/-- A core whose output is pending and will be committed by the step. -/
theorem witness_StepKeepsTheMemoryInvariant :
    MemoryInv (inFlight (okOut plain1)) ∧ ∃ t, step (inFlight (okOut plain1)) = .next t := by
  refine ⟨⟨by decide, by decide, by decide, by decide, nofun, nofun, nofun, by decide, ?_⟩, _, rfl⟩
  rintro o h
  cases h
  exact ⟨fun l h => by cases h; decide, nofun⟩

theorem witness_StepKeepsTheControlInvariant :
    ControlInv (inFlight outcomeIllegal) ∧ ∃ t, step (inFlight outcomeIllegal) = .next t := by
  refine ⟨⟨by decide, by decide, ?_⟩, _, rfl⟩
  rintro c h
  cases h
  decide

/-- A core that holds a schedule and expands another. -/
theorem witness_StepKeepsTheScheduleInvariant :
    let s := { sized 0 with phase := .busy (outcomeKeyExpand (snapshot (sized 0))) }
    ScheduleInv s ∧ s.keyv = true ∧ ∃ t, step s = .next t := by
  refine ⟨⟨fun _ => ⟨key1, ?_⟩, ?_⟩, rfl, _, rfl⟩
  · show (Memory.ofBytes .zero (keyExpansion key1)).bytes 176 = _
    rw [← length_keyExpansion key1]
    exact Memory.bytes_ofBytes _ _
  · rintro r l h h'
    cases h
    cases h'
    exact ⟨_, rfl⟩

end Sys2Proof.Tests
end

section
/-! PROOFS. The writes of the bus (R66 to R68): when a write is answered OKAY, what a location's write action is, what
the lanes of a byte window's write store and keep; and from these O45 and O44. -/

namespace Sys2Proof.Machine

/-! ### Which transactions are answered OKAY -/

/-- A transaction's offset is no error when it is aligned and in one of the ranges of the map (R63 to R65). -/
theorem badOffset_eq_false_iff (s : State) (off : Offset) :
    badOffset s off = false ↔ off.toNat % 4 = 0 ∧ (off.toNat < 0x040 ∨
      (0x1000 ≤ off.toNat ∧ off.toNat < 0x1000 + s.bufBytes) ∨
      (0x2000 ≤ off.toNat ∧ off.toNat < 0x2000 + s.bufBytes)) := by
  simp only [badOffset, mapped, inInBuf, inOutBuf, Bool.or_eq_false_iff, bne_eq_false_iff_eq,
    Bool.not_eq_eq_eq_not, Bool.not_false, Bool.or_eq_true, Bool.and_eq_true, decide_eq_true_eq, or_assoc]

theorem partialControlWrite_eq_true_iff (off : Offset) (strb : Strobe) :
    partialControlWrite off strb = true ↔ off.toNat < 0x020 ∧ strb ≠ 0b1111#4 := by
  simp [partialControlWrite]

/-- Out of reset, a write that comes first is what the step serves. -/
theorem step_before_write {s : State} (hr : s.inReset = false) (off : Offset) (strb : Strobe) (v : Word) :
    step (before (.write off strb v) s) = memWrite off strb v s := by
  rcases advance_cases (before (.write off strb v) s) with ⟨h, _⟩ | ⟨h, _⟩ | ⟨_, h, _⟩ | ⟨_, e, r, h, k⟩
  · exact absurd (hr.symm.trans h) (by decide)
  · exact absurd (hr.symm.trans h) (by decide)
  · cases h
  · cases h
    exact k

/-- A partial write to a control register is refused, and nothing is written (R66). -/
theorem step_partial_control_write {s : State} (hr : s.inReset = false) {off : Offset} {strb : Strobe}
    (v : Word) (hlt : off.toNat < 0x020) (hstrb : strb ≠ 0b1111#4) :
    step (before (.write off strb v) s) = .next (answer (.written .error) s) := by
  have hp := (partialControlWrite_eq_true_iff off strb).2 ⟨hlt, hstrb⟩
  rw [step_before_write hr]
  simp [memWrite, hp]

/-- A write that is aligned, mapped and no partial write to a control register is answered OKAY and acts on its
location. -/
theorem step_okay_write {s : State} (hr : s.inReset = false) {off : Offset} {strb : Strobe} (v : Word)
    (hb : badOffset s off = false) (hfull : off.toNat < 0x020 → strb = 0b1111#4) :
    step (before (.write off strb v) s) =
      writeLocation off.toNat strb v (answer (.written .okay) s) := by
  have hp : partialControlWrite off strb = false := by
    simpa [partialControlWrite] using hfull
  rw [step_before_write hr]
  simp [memWrite, hb, hp]

theorem step_full_control_write {s : State} (hr : s.inReset = false) {off : Offset} (v : Word)
    (halign : off.toNat % 4 = 0) (hlt : off.toNat < 0x020) :
    step (before (.write off 0b1111#4 v) s) =
      writeLocation off.toNat 0b1111#4 v (answer (.written .okay) s) :=
  step_okay_write hr v ((badOffset_eq_false_iff s off).2 ⟨halign, .inl (by omega)⟩) fun _ => rfl

/-! ### The write action of each window (R64, R67, R68) -/

section
variable {off : Nat} (strb : Strobe) (v : Word) (s : State)

theorem writeLocation_key (h : 0x020 ≤ off) (h' : off < 0x030) :
    writeLocation off strb v s = .next (writeWindow storeKey (off - 0x020) strb v s) := by
  simp (disch := omega) only [writeLocation, if_neg, if_pos]

theorem writeLocation_iv (h : 0x030 ≤ off) (h' : off < 0x040) :
    writeLocation off strb v s = .next (writeWindow storeIv (off - 0x030) strb v s) := by
  simp (disch := omega) only [writeLocation, if_neg, if_pos]

theorem writeLocation_inBuf (h : 0x1000 ≤ off) (h' : off < 0x2000) :
    writeLocation off strb v s = .next (writeWindow storeInBuf (off - 0x1000) strb v s) := by
  simp (disch := omega) only [writeLocation, if_neg, if_pos]

theorem writeLocation_outBuf (h : 0x2000 ≤ off) : writeLocation off strb v s = .next s := by
  simp (disch := omega) only [writeLocation, if_neg]

end

@[simp] theorem isBusy_answer (a : Answer) (s : State) : isBusy (answer a s) = isBusy s := rfl

theorem writeInLen_of_idle (v : Word) {s : State} (h : s.phase = .idle) :
    writeInLen v s = { s with inLen := v } := by
  simp [writeInLen, isBusy_of_idle s h]

theorem writeInLen_of_busy (v : Word) {s : State} (h : isBusy s = true) :
    writeInLen v s = { s with wib := true } :=
  if_pos h

theorem writeWindow_of_busy (store : Nat → Byte → State → State) (base : Nat) (strb : Strobe) (v : Word)
    {s : State} (h : isBusy s = true) :
    writeWindow store base strb v s = { s with wib := if strb = 0 then s.wib else true } := by
  rw [writeWindow, if_pos h]
  split <;> rfl

theorem writeWindow_of_idle (store : Nat → Byte → State → State) (base : Nat) (strb : Strobe) (v : Word)
    {s : State} (h : isBusy s = false) :
    writeWindow store base strb v s =
      storeLane store base strb v 3 (storeLane store base strb v 2
        (storeLane store base strb v 1 (storeLane store base strb v 0 s))) := by
  simp [writeWindow, h]

/-! ### One byte's store -/

theorem blockByte_blockFrom (f : Nat → Byte) {i : Nat} (h : i < 16) : blockByte (blockFrom f 0) i = f i := by
  interval_cases i <;> rfl

theorem SameButWindows.refl (s : State) : SameButWindows s s := by
  constructor <;> rfl

theorem SameButWindows.trans {s t u : State} (h : SameButWindows s t) (k : SameButWindows t u) :
    SameButWindows s u :=
  ⟨k.ie.trans h.ie, k.done.trans h.done, k.wib.trans h.wib, k.errcode.trans h.errcode, k.inLen.trans h.inLen,
    k.outLen.trans h.outLen, k.bufBytes.trans h.bufBytes, k.outBuf.trans h.outBuf, k.rk.trans h.rk,
    k.keyv.trans h.keyv, k.phase.trans h.phase, k.inReset.trans h.inReset, k.datapath.trans h.datapath,
    k.draws.trans h.draws, k.events.trans h.events⟩

theorem sameButWindows_answer (a : Answer) (s : State) : SameButWindows s (answer a s) := by
  constructor <;> rfl

/-- The windows a host may store to: KEY, IV and IN_BUF (R64). -/
theorem InInputWindow.ranges {s : State} {a : Nat} (h : InInputWindow s a) :
    (0x020 ≤ a ∧ a < 0x030) ∨ (0x030 ≤ a ∧ a < 0x040) ∨ 0x1000 ≤ a := by
  unfold InInputWindow at h
  omega

theorem InInputWindow.badOffset {s : State} {off : Offset} (halign : off.toNat % 4 = 0)
    (hwin : InInputWindow s off.toNat) : badOffset s off = false := by
  unfold InInputWindow at hwin
  exact (badOffset_eq_false_iff s off).2 ⟨halign, by omega⟩

theorem inputByte_key (s : State) {a : Nat} (h : a < 0x030) : inputByte s a = blockByte s.key (a - 0x020) :=
  if_pos h

theorem inputByte_iv (s : State) {a : Nat} (h : 0x030 ≤ a) (h' : a < 0x040) :
    inputByte s a = blockByte s.iv (a - 0x030) := by
  rw [inputByte, if_neg (by omega), if_pos h']

theorem inputByte_inBuf (s : State) {a : Nat} (h : 0x1000 ≤ a) : inputByte s a = s.inBuf.read (a - 0x1000) := by
  rw [inputByte, if_neg (by omega), if_neg (by omega)]

/-- `store` writes the bytes of the window of `n` bytes that begins at offset `w`: index `i` is the byte at
`w + i`, and every other byte a host may store, and all the rest of the state, stay. -/
structure StoresWindow (store : Nat → Byte → State → State) (w n : Nat) : Prop where
  frame : ∀ i b t, SameButWindows t (store i b t)
  answers : ∀ i b t, (store i b t).answers = t.answers
  wf : ∀ i b t, t.inBuf.wf → (store i b t).inBuf.wf
  byte : ∀ i b t a, i < n → t.inBuf.wf → InInputWindow t a →
    inputByte (store i b t) a = if a = w + i then b else inputByte t a

theorem storeKey_storesWindow : StoresWindow storeKey 0x020 16 where
  frame i b t := by constructor <;> rfl
  answers i b t := rfl
  wf i b t h := h
  byte i b t a hi _ ha := by
    rcases ha.ranges with ⟨hlo, hlt⟩ | ⟨hlo, hlt⟩ | hlo
    · rw [inputByte_key _ hlt, inputByte_key _ hlt, storeKey_key, blockByte_blockFrom _ (by omega)]
      exact if_congr (by omega) rfl rfl
    · rw [inputByte_iv _ hlo hlt, inputByte_iv _ hlo hlt, storeKey_iv, if_neg (by omega)]
    · rw [inputByte_inBuf _ hlo, inputByte_inBuf _ hlo, storeKey_inBuf, if_neg (by omega)]

theorem storeIv_storesWindow : StoresWindow storeIv 0x030 16 where
  frame i b t := by constructor <;> rfl
  answers i b t := rfl
  wf i b t h := h
  byte i b t a hi _ ha := by
    rcases ha.ranges with ⟨hlo, hlt⟩ | ⟨hlo, hlt⟩ | hlo
    · rw [inputByte_key _ hlt, inputByte_key _ hlt, storeIv_key, if_neg (by omega)]
    · rw [inputByte_iv _ hlo hlt, inputByte_iv _ hlo hlt, storeIv_iv, blockByte_blockFrom _ (by omega)]
      exact if_congr (by omega) rfl rfl
    · rw [inputByte_inBuf _ hlo, inputByte_inBuf _ hlo, storeIv_inBuf, if_neg (by omega)]

theorem storeInBuf_storesWindow (n : Nat) : StoresWindow storeInBuf 0x1000 n where
  frame i b t := by constructor <;> rfl
  answers i b t := rfl
  wf i b t h := Memory.wf_write h i b
  byte i b t a _ hwf ha := by
    rcases ha.ranges with ⟨hlo, hlt⟩ | ⟨hlo, hlt⟩ | hlo
    · rw [inputByte_key _ hlt, inputByte_key _ hlt, storeInBuf_key, if_neg (by omega)]
    · rw [inputByte_iv _ hlo hlt, inputByte_iv _ hlo hlt, storeInBuf_iv, if_neg (by omega)]
    · rw [inputByte_inBuf _ hlo, inputByte_inBuf _ hlo, storeInBuf_inBuf]
      by_cases h : a = 0x1000 + i
      · rw [if_pos h, show a - 0x1000 = i by omega, Memory.read_write_same hwf]
      · rw [if_neg h, Memory.read_write_other _ _ (by omega)]

/-- An aligned write to a window a host may store to is that window's `writeWindow`, and its four bytes lie in the
window. -/
theorem step_inputWindow_write {s : State} (hr : s.inReset = false) (hcap : Config.legalBufBytes s.bufBytes)
    {off : Offset} (halign : off.toNat % 4 = 0) (hwin : InInputWindow s off.toNat) (strb : Strobe) (v : Word) :
    ∃ store w n base, StoresWindow store w n ∧ off.toNat = w + base ∧ base + 4 ≤ n ∧
      step (before (.write off strb v) s) =
        .next (writeWindow store base strb v (answer (.written .okay) s)) := by
  have hranges := hwin.ranges
  rw [step_okay_write hr v (hwin.badOffset halign) (by omega)]
  rcases hranges with ⟨hlo, hlt⟩ | ⟨hlo, hlt⟩ | hlo
  · exact ⟨_, _, _, _, storeKey_storesWindow, by omega, by omega, writeLocation_key strb v _ hlo hlt⟩
  · exact ⟨_, _, _, _, storeIv_storesWindow, by omega, by omega, writeLocation_iv strb v _ hlo hlt⟩
  · have hlt : off.toNat < 0x2000 := by
      unfold InInputWindow at hwin
      omega
    exact ⟨_, _, _, _, storeInBuf_storesWindow 0x1000, by omega, by omega,
      writeLocation_inBuf strb v _ hlo hlt⟩

/-! ### The four lanes -/

/-- `t` is `s` after the lanes `0 .. k-1` of `v` that the mask selects were stored from offset `off` on (R62, R67). -/
structure LanesStored (off : Nat) (strb : Strobe) (v : Word) (k : Nat) (s t : State) : Prop where
  frame : SameButWindows s t
  answers : t.answers = s.answers
  wf : t.inBuf.wf
  byte : ∀ a, InInputWindow s a → inputByte t a =
    if off ≤ a ∧ a < off + k ∧ strb.getLsbD (a - off) = true then lane v (a - off) else inputByte s a

theorem LanesStored.zero (off : Nat) (strb : Strobe) (v : Word) {s : State} (h : s.inBuf.wf) :
    LanesStored off strb v 0 s s :=
  ⟨.refl s, rfl, h, fun a _ => by rw [if_neg (by omega)]⟩

/-- One lane more adds one offset only. -/
theorem lanes_succ_iff {off k a : Nat} (h : a ≠ off + k) (p : Prop) :
    (off ≤ a ∧ a < off + (k + 1) ∧ p) ↔ (off ≤ a ∧ a < off + k ∧ p) :=
  and_congr_right fun _ => and_congr_left fun _ => by omega

theorem LanesStored.succ {store : Nat → Byte → State → State} {w n base k : Nat} {strb : Strobe} {v : Word}
    {s t : State} (hs : StoresWindow store w n) (hk : base + k < n)
    (h : LanesStored (w + base) strb v k s t) :
    LanesStored (w + base) strb v (k + 1) s (storeLane store base strb v k t) := by
  unfold storeLane
  split
  · next hset =>
    refine ⟨h.frame.trans (hs.frame _ _ t), (hs.answers _ _ t).trans h.answers, hs.wf _ _ t h.wf, fun a ha => ?_⟩
    have hat : InInputWindow t a := by
      rw [InInputWindow, h.frame.bufBytes]
      exact ha
    rw [hs.byte _ _ t a hk h.wf hat, h.byte a ha]
    by_cases heq : a = w + base + k
    · have hd : a - (w + base) = k := by omega
      rw [if_pos (by omega), hd, if_pos ⟨by omega, by omega, hset⟩]
    · rw [if_neg (by omega)]
      exact if_congr (lanes_succ_iff heq _).symm rfl rfl
  · next hclear =>
    refine ⟨h.frame, h.answers, h.wf, fun a ha => ?_⟩
    rw [h.byte a ha]
    by_cases heq : a = w + base + k
    · have hd : a - (w + base) = k := by omega
      rw [hd, if_neg fun hin => hclear hin.2.2, if_neg fun hin => hclear hin.2.2]
    · exact if_congr (lanes_succ_iff heq _).symm rfl rfl

/-- A write to a window of an idle core stores the four lanes that the mask selects, and nothing else (R67). -/
theorem lanesStored_writeWindow {store : Nat → Byte → State → State} {w n base : Nat} {s : State}
    (hs : StoresWindow store w n) (hbase : base + 4 ≤ n) (hidle : isBusy s = false) (hwf : s.inBuf.wf)
    (strb : Strobe) (v : Word) :
    LanesStored (w + base) strb v 4 s (writeWindow store base strb v s) := by
  rw [writeWindow_of_idle _ _ _ _ hidle]
  exact .succ hs (by omega) (.succ hs (by omega) (.succ hs (by omega) (.succ hs (by omega) (.zero _ _ _ hwf))))

/-! ### The obligations -/

/-- Settles O45: the lanes of an idle core's write are stored one after the other; a busy core's write and one to
OUT_BUF store nothing. -/
theorem byteWindowWrites : Obligations.ByteWindowWrites := by
  unfold Obligations.ByteWindowWrites
  intro s off strb v hr hcap hwf halign
  refine ⟨fun hwin hidle => ?idle, fun hwin hbusy => ?busy, fun hlo hhi => ?outBuf⟩
  case idle =>
    obtain ⟨store, w, n, base, hs, hoff, hbase, hstep⟩ := step_inputWindow_write hr hcap halign hwin strb v
    have hstored := lanesStored_writeWindow (s := answer (.written .okay) s) hs hbase
      (isBusy_of_idle _ hidle) hwf strb v
    exact ⟨_, hstep, hstored.answers, (sameButWindows_answer _ s).trans hstored.frame, hoff ▸ hstored.byte⟩
  case busy =>
    obtain ⟨store, w, n, base, -, -, -, hstep⟩ := step_inputWindow_write hr hcap halign hwin strb v
    rw [hstep, writeWindow_of_busy _ _ _ _ ((isBusy_answer _ s).trans hbusy)]
    rfl
  case outBuf =>
    have hb := (badOffset_eq_false_iff s off).2 ⟨halign, .inr (.inr ⟨hlo, hhi⟩)⟩
    rw [step_okay_write hr v hb (by omega), writeLocation_outBuf _ _ _ hlo]
    rfl

/-- Settles O44: a partial write is refused; a full one acts as `writeLocation` says of its offset, and IN_LEN as
`writeInLen` does in the core's phase. -/
theorem controlRegisterWrites : Obligations.ControlRegisterWrites := by
  unfold Obligations.ControlRegisterWrites
  intro s v hr _ ok
  have hinLen : step (before (.write 0x014#14 0b1111#4 v) s) =
      .next (writeInLen v (answer (.written .okay) s)) :=
    step_full_control_write hr v (by decide) (by decide)
  refine ⟨fun off strb _ hlt hstrb => step_partial_control_write hr v hlt hstrb, ?ignored,
    step_full_control_write hr v (by decide) (by decide), step_full_control_write hr v (by decide) (by decide),
    step_full_control_write hr v (by decide) (by decide), fun hidle => ?inLenIdle, fun hbusy => ?inLenBusy⟩
  case ignored =>
    rintro off (rfl | rfl | rfl | rfl) <;> exact step_full_control_write hr v (by decide) (by decide)
  case inLenIdle =>
    rw [hinLen, writeInLen_of_idle v (s := answer (.written .okay) s) hidle]
    rfl
  case inLenBusy =>
    rw [hinLen, writeInLen_of_busy v ((isBusy_answer _ s).trans hbusy)]
    rfl

end Sys2Proof.Machine
end

section
/-! PROOFS. Illegal commands (R93, R268): which words the decoder takes and which it rejects, what a failed command's
issue and completion do; and from these O10. -/

namespace Sys2Proof.Machine

/-! ### Which words decode -/

theorem decode_of_reserved_zero {w : Word} (h0 : res0Field w = 0) (h1 : res1Field w = 0) :
    decode w = .ok (instrOf (opField w) (bszField w).toNat) := by
  simp [decode, h0, h1]

theorem decode_of_reserved_nonzero {w : Word} (h : res0Field w ≠ 0 ∨ res1Field w ≠ 0) :
    ∃ e, decode w = .error e := by
  unfold decode
  by_cases h0 : res0Field w = 0
  · have h1 : res1Field w ≠ 0 := h.resolve_left (not_not_intro h0)
    exact ⟨.res1NotZero, by rw [if_neg (not_not_intro h0), if_pos h1]⟩
  · exact ⟨.res0NotZero, if_pos h0⟩

/-- The decoder rejects a word exactly for its reserved fields: every opcode is a command (R93, R96). -/
theorem decode_eq_error_iff (w : Word) :
    (∃ e, decode w = .error e) ↔ res0Field w ≠ 0 ∨ res1Field w ≠ 0 := by
  refine ⟨fun ⟨e, he⟩ => ?_, decode_of_reserved_nonzero⟩
  by_contra h
  obtain ⟨h0, h1⟩ : res0Field w = 0 ∧ res1Field w = 0 := by simpa only [not_or, not_not] using h
  rw [decode_of_reserved_zero h0 h1] at he
  cases he

/-- An opcode is the command its row of the opcode map names (R94). -/
theorem hasOpcode_of_instrOf {op : BitVec 4} {mk : Nat → Instr} (h : ∀ b, instrOf op b = mk b) :
    HasOpcode op mk := by
  rintro w rfl h0 h1
  rw [decode_of_reserved_zero h0 h1, h]

/-! ### A failure from issue to completion -/

/-- A failure issued on an idle core completes with its code and leaves the rest as it was (R260, R263, R304). -/
theorem issue_fail_of_idle {s : State} (c : ErrCode) (h : s.phase = .idle) :
    Issued s (issue (.fail c) s) ∧ Completed c (complete (issue (.fail c) s)) ∧
      SameButLifecycle s (complete (issue (.fail c) s)) := by
  have hissued := issue_same_of_idle (.fail c) h
  have hbusy : (issue (.fail c) s).phase = .busy (.fail c) := by rw [issue_of_idle s _ h]
  obtain ⟨hdone, hsame⟩ := complete_fail hbusy
  exact ⟨hissued, hdone, hissued.same.trans hsame⟩

theorem runWord_of_decode_error {w : Word} {e : DecodeReject} (h : decode w = .error e) (s : State) :
    runWord w s = .next (issue (.fail .illegalCmd) s) := by
  rw [runWord, h]
  rfl

/-! ### The obligation -/

/-- Settles O10: a reserved command's outcome is the failure ILLEGAL_CMD, and a word the decoder rejects is issued with
that same outcome. -/
theorem reservedCommandsAreIllegal : Obligations.ReservedCommandsAreIllegal := by
  unfold Obligations.ReservedCommandsAreIllegal
  refine ⟨hasOpcode_of_instrOf fun _ => rfl, hasOpcode_of_instrOf fun _ => rfl, hasOpcode_of_instrOf fun _ => rfl,
    hasOpcode_of_instrOf fun _ => rfl, hasOpcode_of_instrOf fun _ => rfl, rfl, decode_eq_error_iff,
    fun s b hidle => ?commands, fun s w hidle hreserved => ?words⟩
  case commands =>
    exact ⟨commandFails_of_outcome hidle rfl, commandFails_of_outcome hidle rfl, commandFails_of_outcome hidle rfl,
      commandFails_of_outcome hidle rfl, commandFails_of_outcome hidle rfl⟩
  case words =>
    obtain ⟨e, he⟩ := decode_of_reserved_nonzero hreserved
    exact ⟨_, runWord_of_decode_error he s, issue_fail_of_idle .illegalCmd hidle⟩

end Sys2Proof.Machine
end

section
/-! PROOFS. gf_mul against the reference product (R122): one step of the reduction commutes with XOR and with the
multiplication by x, so reducing after every multiplication, as gf_mul does, is reducing once at the end; and from
these O27. -/

namespace Sys2Proof.Machine

/-! ### The steps of the two reference folds -/

/-- One step of `polyReduce`: cancel bit `8 + i` by a multiple of 0x11B. -/
def reduceStep (q : BitVec 16) (i : Nat) : BitVec 16 :=
  if q.getLsbD (8 + i) then q ^^^ (0x11B#16 <<< i) else q

/-- One step of `polyProduct`: add `a` times x^i if bit `i` of `b` is set. -/
def addShifted (a b : Byte) (p : BitVec 16) (i : Nat) : BitVec 16 :=
  if b.getLsbD i then p ^^^ (a.setWidth 16 <<< i) else p

theorem polyReduce_eq_foldl (p : BitVec 16) :
    polyReduce p = ([7, 6, 5, 4, 3, 2, 1, 0].foldl reduceStep p).setWidth 8 := rfl

theorem polyProduct_eq_foldl (a b : Byte) : polyProduct a b = (List.range' 0 8).foldl (addShifted a b) 0 := rfl

/-! ### The reduction is linear over XOR -/

theorem reduceStep_of_clear {q : BitVec 16} {i : Nat} (h : q.getLsbD (8 + i) = false) : reduceStep q i = q := by
  simp [reduceStep, h]

theorem reduceStep_xor (p q : BitVec 16) (i : Nat) :
    reduceStep (p ^^^ q) i = reduceStep p i ^^^ reduceStep q i := by
  unfold reduceStep
  rw [BitVec.getLsbD_xor]
  generalize 0x11B#16 <<< i = m
  cases p.getLsbD (8 + i) <;> cases q.getLsbD (8 + i)
  · rfl
  · exact BitVec.xor_assoc p q m
  · show p ^^^ q ^^^ m = p ^^^ m ^^^ q
    ac_rfl
  · have hcancel : p ^^^ m ^^^ (q ^^^ m) = p ^^^ q ^^^ (m ^^^ m) := by ac_rfl
    simpa using hcancel.symm

theorem foldl_reduceStep_xor (is : List Nat) (p q : BitVec 16) :
    is.foldl reduceStep (p ^^^ q) = is.foldl reduceStep p ^^^ is.foldl reduceStep q := by
  induction is generalizing p q with
  | nil => rfl
  | cons i is ih => simp only [List.foldl_cons, reduceStep_xor, ih]

theorem polyReduce_xor (p q : BitVec 16) : polyReduce (p ^^^ q) = polyReduce p ^^^ polyReduce q := by
  simp only [polyReduce_eq_foldl, foldl_reduceStep_xor, BitVec.setWidth_xor]

/-- A polynomial of degree at most 7 is its own remainder. -/
theorem polyReduce_setWidth (a : Byte) : polyReduce (a.setWidth 16) = a := by
  have hclear : ∀ i, reduceStep (a.setWidth 16) i = a.setWidth 16 := fun i =>
    reduceStep_of_clear (by simp)
  simp [polyReduce_eq_foldl, hclear]

/-! ### The reduction commutes with the multiplication by x -/

/-- Cancelling one bit higher after a multiplication by x is cancelling before it. -/
theorem reduceStep_shiftLeft_succ (q : BitVec 16) {i : Nat} (h : i < 7) :
    reduceStep (q <<< 1) (i + 1) = reduceStep q i <<< 1 := by
  have hbit : (q <<< 1).getLsbD (8 + (i + 1)) = q.getLsbD (8 + i) := by
    rw [BitVec.getLsbD_shiftLeft, show 8 + (i + 1) - 1 = 8 + i by omega]
    simp [show 8 + (i + 1) < 16 by omega]
  unfold reduceStep
  rw [hbit, BitVec.shiftLeft_add]
  split
  · exact (BitVec.shiftLeft_xor_distrib q _ 1).symm
  · rfl

/-- The last step of the reduction, after a multiplication by x, is the conditional XOR of `xtime`. -/
theorem setWidth_reduceStep_zero (q : BitVec 16) :
    (reduceStep (q <<< 1) 0).setWidth 8 = xtime (q.setWidth 8) := by
  have hbit : (q <<< 1).getLsbD (8 + 0) = (q.setWidth 8).getLsbD 7 := by
    simp
  have hshift : (q <<< 1).setWidth 8 = q.setWidth 8 <<< 1 := BitVec.setWidth_shiftLeft_of_le (by decide)
  rw [reduceStep, hbit, xtime_eq]
  split
  · rw [BitVec.setWidth_xor, hshift]
    rfl
  · rw [hshift, BitVec.xor_zero]

/-- Multiplying by x before the reduction is `xtime` after it, when no bit is lost. -/
theorem polyReduce_shiftLeft_one {q : BitVec 16} (h : q.getLsbD 15 = false) :
    polyReduce (q <<< 1) = xtime (polyReduce q) := by
  have htop : reduceStep q 7 = q := reduceStep_of_clear h
  have hsteps : [7, 6, 5, 4, 3, 2, 1].foldl reduceStep (q <<< 1) =
      [6, 5, 4, 3, 2, 1, 0].foldl reduceStep q <<< 1 := by
    simp [reduceStep_shiftLeft_succ]
  calc polyReduce (q <<< 1)
      = (reduceStep ([7, 6, 5, 4, 3, 2, 1].foldl reduceStep (q <<< 1)) 0).setWidth 8 := rfl
    _ = xtime (([6, 5, 4, 3, 2, 1, 0].foldl reduceStep q).setWidth 8) := by
        rw [hsteps, setWidth_reduceStep_zero]
    _ = xtime (([6, 5, 4, 3, 2, 1, 0].foldl reduceStep (reduceStep q 7)).setWidth 8) := by rw [htop]
    _ = xtime (polyReduce q) := rfl

/-- In gf_mul's loop, `a` times x^i is kept reduced. -/
theorem xtime_polyReduce_shifted (a : Byte) {i : Nat} (h : i < 8) :
    xtime (polyReduce (a.setWidth 16 <<< i)) = polyReduce (a.setWidth 16 <<< (i + 1)) := by
  have htop : (a.setWidth 16 <<< i).getLsbD 15 = false := by
    rw [BitVec.getLsbD_shiftLeft, BitVec.getLsbD_setWidth, BitVec.getLsbD_of_ge a (15 - i) (by omega)]
    simp
  rw [BitVec.shiftLeft_add, polyReduce_shiftLeft_one htop]

/-! ### The loop of gf_mul -/

theorem polyReduce_addShifted (a b : Byte) (p : BitVec 16) (i : Nat) :
    polyReduce (addShifted a b p i) =
      if b.getLsbD i then polyReduce p ^^^ polyReduce (a.setWidth 16 <<< i) else polyReduce p := by
  rw [addShifted, apply_ite polyReduce, polyReduce_xor]

/-- The loop invariant of R122: with `n` bits of `b` to take and `i` taken, gf_mul's `a` and `p` are the remainders of
`a` times x^i and of the reference product's partial sum. -/
theorem gfMulFrom_polyReduce (a b : Byte) {n i : Nat} (h : i + n = 8) (p : BitVec 16) :
    gfMulFrom b n (polyReduce (a.setWidth 16 <<< i)) (polyReduce p) =
      polyReduce ((List.range' i n).foldl (addShifted a b) p) := by
  induction n generalizing i p with
  | zero => rfl
  | succ n ih =>
    have hbit : 7 - n = i := by omega
    rw [gfMulFrom, hbit, ← polyReduce_addShifted, xtime_polyReduce_shifted a (by omega), ih (by omega)]
    rfl

/-! ### The obligation -/

/-- Settles O27: gf_mul's loop invariant at its start, where `a` and the empty sum are their own remainders. -/
theorem gfMulIsTheReducedProduct : Obligations.GfMulIsTheReducedProduct := by
  unfold Obligations.GfMulIsTheReducedProduct
  intro a b
  have hstart : polyReduce (a.setWidth 16 <<< 0) = a := by rw [BitVec.shiftLeft_zero, polyReduce_setWidth]
  have hzero : polyReduce 0 = 0x00#8 := polyReduce_setWidth 0x00#8
  have hloop := gfMulFrom_polyReduce a b (n := 8) (i := 0) rfl 0
  rwa [hstart, hzero, ← polyProduct_eq_foldl] at hloop

end Sys2Proof.Machine
end

section
/-! PROOFS. The round-key schedule (R145, R146): what a commit does to RK and KEYV; that a host's transaction keeps
the commands' results, so that a step changes them by a reset or a completion only; and from these O11 and O51. -/

namespace Sys2Proof.Machine

/-! ### The commit of a success, seen from RK and KEYV (R264) -/

section
variable {r : CmdResult} (s : State)

theorem commitOk_schedule_of_zeroize (hz : r.zeroize = true) :
    (commitOk r s).rk = ⟨.zero, []⟩ ∧ (commitOk r s).keyv = false := by
  simp [commitOk, hz]

theorem commitOk_schedule_of_some {l : List Byte} (hz : r.zeroize = false) (hrk : r.rk = some l) :
    (commitOk r s).rk = Memory.ofBytes .zero l ∧ (commitOk r s).keyv = true := by
  simp [commitOk, hz, hrk]

theorem commitOk_schedule_of_none (hz : r.zeroize = false) (hrk : r.rk = none) :
    (commitOk r s).rk = s.rk ∧ (commitOk r s).keyv = s.keyv := by
  simp only [commitOk, hz, hrk]
  cases r.out <;> exact ⟨rfl, rfl⟩

end

/-! ### KEY_EXPAND from issue to completion -/

theorem complete_keyExpand {t : State} {p : Snapshot} (h : t.phase = .busy (outcomeKeyExpand p)) :
    Completed .none (complete t) ∧ (complete t).rk = Memory.ofBytes .zero (keyExpansion p.key) ∧
      (complete t).keyv = true ∧ SameButSchedule t (complete t) := by
  rw [complete_of_busy t h]
  exact ⟨⟨rfl, rfl, rfl⟩, rfl, rfl, by constructor <;> rfl⟩

theorem SameButSchedule.of_lifecycle {s t u : State} (h : SameButLifecycle s t) (k : SameButSchedule t u) :
    SameButSchedule s u :=
  ⟨k.ie.trans h.ie, k.wib.trans h.wib, k.inLen.trans h.inLen, k.outLen.trans h.outLen,
    k.bufBytes.trans h.bufBytes, k.key.trans h.key, k.iv.trans h.iv, k.inBuf.trans h.inBuf,
    k.outBuf.trans h.outBuf, k.inReset.trans h.inReset, k.events.trans h.events, k.answers.trans h.answers⟩

theorem rkIn_of_keyExpansion {s : State} {f : Fill} {k : Block} (h : s.rk = Memory.ofBytes f (keyExpansion k)) :
    rkIn s = keyExpansion k := by
  have hbytes := Memory.bytes_ofBytes f (keyExpansion k)
  rwa [length_keyExpansion, ← h] at hbytes

/-- Settles O11: KEY_EXPAND's outcome is a success with the schedule of KEY; the issue keeps all but the lifecycle, and
the commit all but RK and KEYV. -/
theorem keyExpandLoadsTheSchedule : Obligations.KeyExpandLoadsTheSchedule := by
  unfold Obligations.KeyExpandLoadsTheSchedule
  refine ⟨hasOpcode_of_instrOf fun _ => rfl, fun s b hidle => ?_⟩
  have hissued := issue_same_of_idle (outcomeKeyExpand (snapshot s)) hidle
  have hbusy : (issue (outcomeKeyExpand (snapshot s)) s).phase = .busy (outcomeKeyExpand (snapshot s)) := by
    rw [issue_of_idle s _ hidle]
  obtain ⟨hdone, hrk, hkeyv, hsame⟩ := complete_keyExpand hbusy
  exact ⟨_, exec_eq_issue (.keyExpand b) s, hissued, hdone, rkIn_of_keyExpansion hrk, hkeyv,
    .of_lifecycle hissued.same hsame⟩

/-! ### A host's transaction keeps the commands' results -/

/-- `t` holds the same results of commands as `s`: OUT_LEN, OUT_BUF, RK and KEYV. -/
structure SameResults (s t : State) : Prop where
  outLen : t.outLen = s.outLen
  outBuf : t.outBuf = s.outBuf
  rk : t.rk = s.rk
  keyv : t.keyv = s.keyv

theorem SameResults.refl (s : State) : SameResults s s :=
  ⟨rfl, rfl, rfl, rfl⟩

theorem SameResults.trans {s t u : State} (h : SameResults s t) (k : SameResults t u) : SameResults s u :=
  ⟨k.outLen.trans h.outLen, k.outBuf.trans h.outBuf, k.rk.trans h.rk, k.keyv.trans h.keyv⟩

theorem sameResults_issue (o : CmdOutcome) (s : State) : SameResults s (issue o s) := by
  unfold issue
  split <;> exact ⟨rfl, rfl, rfl, rfl⟩

theorem sameResults_writeInLen (v : Word) (s : State) : SameResults s (writeInLen v s) := by
  unfold writeInLen
  split <;> exact ⟨rfl, rfl, rfl, rfl⟩

theorem sameResults_writeWindow {store : Nat → Byte → State → State} (base : Nat) (strb : Strobe) (v : Word)
    (s : State) (hs : ∀ i b u, SameResults u (store i b u)) : SameResults s (writeWindow store base strb v s) :=
  writeWindow_keeps (SameResults s) (.refl s) ⟨rfl, rfl, rfl, rfl⟩ fun _ b u _ h => h.trans (hs _ b u)

/-- No write action of a location changes a result: a CMD write only issues (R66 to R68, R260). -/
theorem writeLocation_sameResults (off : Nat) (strb : Strobe) (v : Word) (s : State) :
    ∃ t, writeLocation off strb v s = .next t ∧ SameResults s t := by
  rcases writeLocation_cases off strb v s with
      ⟨_, hctrl⟩ | ⟨_, hcmd⟩ | ⟨_, hstatus⟩ | ⟨_, hinLen⟩ | ⟨_, hignored⟩ | ⟨_, _, hkey⟩ | ⟨_, _, hiv⟩ |
      ⟨_, _, hinBuf⟩ | ⟨_, houtBuf⟩
  · exact ⟨_, hctrl, rfl, rfl, rfl, rfl⟩
  · obtain ⟨o, ho⟩ := runWord_eq_issue v s
    exact ⟨_, hcmd.trans ho, sameResults_issue o s⟩
  · exact ⟨_, hstatus, rfl, rfl, rfl, rfl⟩
  · exact ⟨_, hinLen, sameResults_writeInLen v s⟩
  · exact ⟨_, hignored, .refl s⟩
  · exact ⟨_, hkey, sameResults_writeWindow _ strb v s fun _ _ _ => ⟨rfl, rfl, rfl, rfl⟩⟩
  · exact ⟨_, hiv, sameResults_writeWindow _ strb v s fun _ _ _ => ⟨rfl, rfl, rfl, rfl⟩⟩
  · exact ⟨_, hinBuf, sameResults_writeWindow _ strb v s fun _ _ _ => ⟨rfl, rfl, rfl, rfl⟩⟩
  · exact ⟨_, houtBuf, .refl s⟩

theorem memWrite_sameResults (off : Offset) (strb : Strobe) (v : Word) (s : State) :
    ∃ t, memWrite off strb v s = .next t ∧ SameResults s t := by
  have hanswer : ∀ a, SameResults s (answer a s) := fun _ => ⟨rfl, rfl, rfl, rfl⟩
  rcases memWrite_cases off strb v s with ⟨_, herror⟩ | ⟨_, hokay⟩
  · exact ⟨_, herror, hanswer _⟩
  · obtain ⟨t, ht, hsame⟩ := writeLocation_sameResults off.toNat strb v (answer (.written .okay) s)
    exact ⟨t, hokay.trans ht, (hanswer _).trans hsame⟩

theorem memRead_sameResults (off : Offset) (s : State) : SameResults s (memRead off s) := by
  obtain ⟨a, n, h⟩ := memRead_frame off s
  rw [h]
  exact ⟨rfl, rfl, rfl, rfl⟩

/-- Completion on an idle core is no step (R263). -/
theorem complete_results_cases (s : State) : (∃ o, s.phase = .busy o) ∨ SameResults s (complete s) := by
  cases hp : s.phase with
  | idle =>
    rw [complete_of_idle s hp]
    exact .inr (.refl s)
  | busy o => exact .inl ⟨o, rfl⟩

/-- An event out of reset completes, or keeps every result. -/
theorem serve_results_cases (e : Event) (s : State) :
    ∃ t, serve e s = .next t ∧ (t = complete s ∨ SameResults s t) := by
  cases e with
  | read off => exact ⟨_, rfl, .inr (memRead_sameResults off s)⟩
  | write off strb v =>
    obtain ⟨t, ht, hsame⟩ := memWrite_sameResults off strb v s
    exact ⟨t, ht, .inr hsame⟩
  | complete => exact ⟨_, rfl, .inl rfl⟩
  | resetAssert => exact ⟨_, rfl, .inr ⟨rfl, rfl, rfl, rfl⟩⟩
  | resetRelease => exact ⟨_, rfl, .inr (.refl s)⟩

/-- A step that is no release of reset and no completion of a command keeps every result (R263, R340). -/
theorem step_results_cases {s t : State} (ht : step s = .next t) :
    (s.inReset = true ∧ ∃ r, t = resetState { s with events := r }) ∨
    (s.inReset = false ∧ ∃ o r, s.phase = .busy o ∧ t = complete { s with events := r }) ∨
    SameResults s t := by
  have hcomplete : ∀ r, s.inReset = false → t = complete { s with events := r } →
      (s.inReset = false ∧ ∃ o r, s.phase = .busy o ∧ t = complete { s with events := r }) ∨
      SameResults s t := by
    rintro r hr rfl
    rcases complete_results_cases { s with events := r } with ⟨o, hbusy⟩ | hsame
    · exact .inl ⟨hr, o, r, hbusy, rfl⟩
    · exact .inr ⟨hsame.outLen, hsame.outBuf, hsame.rk, hsame.keyv⟩
  rcases advance_cases s with ⟨_, _, h⟩ | ⟨hr, r, _, h⟩ | ⟨hr, _, h⟩ | ⟨hr, e, r, _, h⟩
  · cases h.symm.trans ht
    exact .inr (.inr (.refl s))
  · cases h.symm.trans ht
    exact .inl ⟨hr, r, rfl⟩
  · cases h.symm.trans ht
    exact .inr (hcomplete s.events hr rfl)
  · obtain ⟨u, hu, hcases⟩ := serve_results_cases e { s with events := r }
    cases (h.trans hu).symm.trans ht
    rcases hcases with hdone | hsame
    · exact .inr (hcomplete r hr hdone)
    · exact .inr (.inr ⟨hsame.outLen, hsame.outBuf, hsame.rk, hsame.keyv⟩)

/-! ### What the completion of a command does to RK and KEYV -/

theorem complete_fail_schedule {s : State} {c : ErrCode} (h : s.phase = .busy (.fail c)) :
    (complete s).rk = s.rk ∧ (complete s).keyv = s.keyv := by
  obtain ⟨-, hsame⟩ := complete_fail h
  exact ⟨hsame.rk, hsame.keyv⟩

theorem complete_ok_schedule {s : State} {r : CmdResult} (h : s.phase = .busy (.ok r)) :
    (complete s).phase = .idle ∧ (complete s).rk = (commitOk r s).rk ∧
      (complete s).keyv = (commitOk r s).keyv := by
  rw [complete_of_busy s h]
  exact ⟨rfl, rfl, rfl⟩

/-- A completion that changes RK or KEYV is a success that clears the core or brings a schedule (R264, R267). -/
theorem complete_schedule_cases {s : State} {o : CmdOutcome} (h : s.phase = .busy o)
    (hne : (complete s).rk ≠ s.rk ∨ (complete s).keyv ≠ s.keyv) :
    ∃ r, o = .ok r ∧ (complete s).phase = .idle ∧
      ((r.zeroize = true ∧ (complete s).keyv = false ∧ ∀ i, (complete s).rk.read i = 0) ∨
        (r.zeroize = false ∧ r.rk ≠ none ∧ (complete s).keyv = true)) := by
  cases o with
  | fail c =>
    obtain ⟨hrk, hkeyv⟩ := complete_fail_schedule h
    exact absurd hne (by simp [hrk, hkeyv])
  | ok r =>
    obtain ⟨hidle, hrk, hkeyv⟩ := complete_ok_schedule h
    refine ⟨r, rfl, hidle, ?_⟩
    rw [hrk, hkeyv] at hne ⊢
    cases hz : r.zeroize with
    | true =>
      obtain ⟨hclear, hinvalid⟩ := commitOk_schedule_of_zeroize s hz
      exact .inl ⟨rfl, hinvalid, fun i => hclear ▸ Memory.read_zero i⟩
    | false =>
      cases hl : r.rk with
      | none =>
        obtain ⟨hsameRk, hsameKeyv⟩ := commitOk_schedule_of_none s hz hl
        exact absurd hne (by simp [hsameRk, hsameKeyv])
      | some l => exact .inr ⟨rfl, Option.some_ne_none l, (commitOk_schedule_of_some s hz hl).2⟩

/-- Settles O51: of the three kinds of step, the release of reset clears KEYV, a completion is one of the two commits,
and every other step keeps RK and KEYV. -/
theorem scheduleChangesOnlyAtItsCommits : Obligations.ScheduleChangesOnlyAtItsCommits := by
  unfold Obligations.ScheduleChangesOnlyAtItsCommits
  intro s t ht hne
  rcases step_results_cases ht with ⟨hr, r, rfl⟩ | ⟨-, o, r, hbusy, rfl⟩ | hsame
  · exact .inl ⟨hr, rfl⟩
  · obtain ⟨res, rfl, hcommit⟩ := complete_schedule_cases (s := { s with events := r }) hbusy hne
    exact .inr ⟨res, hbusy, hcommit⟩
  · exact absurd hne (by simp [hsame.rk, hsame.keyv])

end Sys2Proof.Machine
end

section
/-! PROOFS. The round transforms (R163 to R166): ShiftRows and its inverse as index maps on the matrix view; gf_mul
by 2 and by 3 through xtime, so that the datapath's MixColumns is the matrix product; and from these O28 and O29. -/

namespace Sys2Proof.Machine

/-! ### gf_mul by the entries of the matrix -/

/-- A factor x comes out of the loop of R122: doubling both of its variables doubles its result. -/
theorem gfMulFrom_xtime (b : Byte) (n : Nat) (a p : Byte) :
    gfMulFrom b n (xtime a) (xtime p) = xtime (gfMulFrom b n a p) := by
  induction n generalizing a p with
  | zero => rfl
  | succ n ih => rw [gfMulFrom, gfMulFrom, ← ih, apply_ite xtime, xtime_xor]

theorem gfMul_xtime_left (a b : Byte) : gfMul (xtime a) b = xtime (gfMul a b) :=
  gfMulFrom_xtime b 8 a 0x00#8

theorem gfMul_one_left (b : Byte) : gfMul 0x01#8 b = b := by
  revert b
  decide +kernel

theorem gfMul_two_left (b : Byte) : gfMul 0x02#8 b = xtime b := by
  rw [show 0x02#8 = xtime 0x01#8 from rfl, gfMul_xtime_left, gfMul_one_left]

theorem gfMul_three_left (b : Byte) : gfMul 0x03#8 b = xtime b ^^^ b := by
  rw [show 0x03#8 = 0x02#8 ^^^ 0x01#8 from rfl, gfMul_xor_left, gfMul_two_left, gfMul_one_left]

/-! ### MixColumns -/

/-- The identity of R166 for one output byte: `a` is the row's own byte and `b` the one below it. -/
theorem mixRow_eq (a b c d : Byte) {t : Byte} (ht : t = a ^^^ (b ^^^ c ^^^ d)) :
    a ^^^ t ^^^ xtime (a ^^^ b) = gfMul 0x02#8 a ^^^ gfMul 0x03#8 b ^^^ (c ^^^ d) := by
  have hrest : a ^^^ t = b ^^^ c ^^^ d := by rw [ht, ← BitVec.xor_assoc, BitVec.xor_self, BitVec.zero_xor]
  rw [hrest, xtime_xor, gfMul_two_left, gfMul_three_left]
  ac_rfl

/-- R165 and R166 on one column: each row is the identity of R166 with the column rotated. -/
theorem mixColumn_eq_mixColumnMatrix (a : Quad) : mixColumn a = mixColumnMatrix a := by
  obtain ⟨a0, a1, a2, a3⟩ := a
  simp only [mixColumn, mixColumnMatrix, Quad.mk.injEq]
  refine ⟨(mixRow_eq a0 a1 a2 a3 ?_).trans ?_, (mixRow_eq a1 a2 a3 a0 ?_).trans ?_,
    (mixRow_eq a2 a3 a0 a1 ?_).trans ?_, (mixRow_eq a3 a0 a1 a2 ?_).trans ?_⟩ <;> ac_rfl

/-- Settles O28: on each column, every row is the identity of R166. -/
theorem mixColumnsIsTheMatrixProduct : Obligations.MixColumnsIsTheMatrixProduct := by
  unfold Obligations.MixColumnsIsTheMatrixProduct
  intro s
  simp only [mixColumns, mixColumn_eq_mixColumnMatrix]

/-! ### ShiftRows and InvShiftRows -/

/-- ShiftRows as one rule for every flat index: byte `i` is element `[i mod 4, i / 4]` (R12, R163). -/
theorem shiftRows_eq_blockFrom (s : Block) :
    shiftRows s = blockFrom (fun i => blockElem s (i % 4) ((i / 4 + i % 4) % 4)) 0 := rfl

/-- InvShiftRows as one rule for every flat index (R12, R164). -/
theorem invShiftRows_eq_blockFrom (s : Block) :
    invShiftRows s = blockFrom (fun i => blockElem s (i % 4) ((i / 4 + 4 - i % 4) % 4)) 0 := rfl

/-- The matrix view of a block that a rule on row and column gives, byte by byte (R12). -/
theorem blockElem_blockFrom (f : Nat → Nat → Byte) {r c : Nat} (hr : r < 4) (hc : c < 4) :
    blockElem (blockFrom (fun i => f (i % 4) (i / 4)) 0) r c = f r c := by
  have hrow : (4 * c + r) % 4 = r := by omega
  have hcol : (4 * c + r) / 4 = c := by omega
  rw [blockElem, blockByte_blockFrom _ (by omega), hrow, hcol]

/-- Settles O29: both rotations are rules on row and column, read back in the matrix view. -/
theorem shiftRowsRotatesTheRows : Obligations.ShiftRowsRotatesTheRows := by
  unfold Obligations.ShiftRowsRotatesTheRows
  intro s r c hr hc
  rw [shiftRows_eq_blockFrom, invShiftRows_eq_blockFrom]
  exact ⟨blockElem_blockFrom (fun r c => blockElem s r ((c + r) % 4)) hr hc,
    blockElem_blockFrom (fun r c => blockElem s r ((c + 4 - r) % 4)) hr hc⟩

end Sys2Proof.Machine
end

section
/-! PROOFS. The round transforms' inverse pairs, both ways round (R126, R162 to R169): the two S-box tables invert each
other; MixColumns has order four on a column, and InvMixColumns is its cube. -/

namespace Sys2Proof.Machine

/-! ### SubBytes, ShiftRows and AddRoundKey -/

theorem invSbox_sbox (x : Byte) : invSbox (sbox x) = x := by
  revert x
  decide +kernel

theorem sbox_invSbox (y : Byte) : sbox (invSbox y) = y := by
  revert y
  decide +kernel

theorem mapBlock_mapBlock_of_leftInverse {f g : Byte → Byte} (h : Function.LeftInverse f g) (s : Block) :
    mapBlock f (mapBlock g s) = s := by
  simp only [mapBlock, mapQuad, h _]

@[simp] theorem invSubBytes_subBytes (s : Block) : invSubBytes (subBytes s) = s :=
  mapBlock_mapBlock_of_leftInverse invSbox_sbox s

@[simp] theorem subBytes_invSubBytes (s : Block) : subBytes (invSubBytes s) = s :=
  mapBlock_mapBlock_of_leftInverse sbox_invSbox s

@[simp] theorem invShiftRows_shiftRows (s : Block) : invShiftRows (shiftRows s) = s := rfl

@[simp] theorem shiftRows_invShiftRows (s : Block) : shiftRows (invShiftRows s) = s := rfl

theorem xorBlock_xorBlock_same (s k : Block) : xorBlock (xorBlock s k) k = s := by
  simp only [xorBlock, xorQuad, xor_cancel_right]

@[simp] theorem addRoundKey_addRoundKey (s : Block) (rk : List Byte) (r : Nat) :
    addRoundKey (addRoundKey s rk r) rk r = s :=
  xorBlock_xorBlock_same s (roundKey rk r)

/-! ### MixColumns has order four

R166 gives row `i` of a column with the XOR `t` of its bytes as `a[i] ^ t ^ xtime(a[i] ^ a[i+1])`. The column keeps its
`t`, so in the square only `a[i] ^ xtime(xtime(a[i] ^ a[i+2]))` remains, and that map is its own inverse. -/

theorem xor_cancel_mid (a b c : Byte) : a ^^^ b ^^^ (b ^^^ c) = a ^^^ c := by
  rw [BitVec.xor_assoc, xor_cancel_left]

/-- The XOR of a column's four bytes. -/
def quadSum (a : Quad) : Byte := a.r0 ^^^ a.r1 ^^^ a.r2 ^^^ a.r3

theorem mixColumn_eq_quadSum (a : Quad) :
    mixColumn a =
      ⟨a.r0 ^^^ quadSum a ^^^ xtime (a.r0 ^^^ a.r1), a.r1 ^^^ quadSum a ^^^ xtime (a.r1 ^^^ a.r2),
       a.r2 ^^^ quadSum a ^^^ xtime (a.r2 ^^^ a.r3), a.r3 ^^^ quadSum a ^^^ xtime (a.r3 ^^^ a.r0)⟩ := rfl

/-- The four copies of `t` cancel, and so do the four arguments of `xtime`. -/
theorem quadSum_mixColumn (a : Quad) : quadSum (mixColumn a) = quadSum a := by
  have hxtime : xtime (a.r0 ^^^ a.r1) ^^^ xtime (a.r1 ^^^ a.r2) ^^^ xtime (a.r2 ^^^ a.r3) ^^^
      xtime (a.r3 ^^^ a.r0) = 0 := by
    rw [← xtime_xor, ← xtime_xor, ← xtime_xor, xor_cancel_mid, xor_cancel_mid, xor_cancel_mid, BitVec.xor_self]
    rfl
  calc quadSum (mixColumn a)
      = (quadSum a ^^^ quadSum a) ^^^ (quadSum a ^^^ quadSum a) ^^^ quadSum a ^^^
          (xtime (a.r0 ^^^ a.r1) ^^^ xtime (a.r1 ^^^ a.r2) ^^^ xtime (a.r2 ^^^ a.r3) ^^^ xtime (a.r3 ^^^ a.r0)) := by
        rw [mixColumn_eq_quadSum]
        simp only [quadSum]
        ac_rfl
    _ = quadSum a := by rw [hxtime, BitVec.xor_self]; simp

/-- One row of the square: `a`, `b`, `c` are three bytes below each other and `t` the column's XOR. -/
theorem mixRow_mixRow (a b c t : Byte) :
    a ^^^ t ^^^ xtime (a ^^^ b) ^^^ t ^^^
        xtime (a ^^^ t ^^^ xtime (a ^^^ b) ^^^ (b ^^^ t ^^^ xtime (b ^^^ c))) =
      a ^^^ xtime (xtime (a ^^^ c)) := by
  have hnext : a ^^^ t ^^^ xtime (a ^^^ b) ^^^ (b ^^^ t ^^^ xtime (b ^^^ c)) = a ^^^ b ^^^ xtime (a ^^^ c) := by
    calc _ = t ^^^ (t ^^^ (a ^^^ b ^^^ (xtime (a ^^^ b) ^^^ xtime (b ^^^ c)))) := by ac_rfl
      _ = _ := by rw [xor_cancel_left, ← xtime_xor, xor_cancel_mid]
  rw [hnext, xtime_xor (a ^^^ b)]
  calc _ = t ^^^ (t ^^^ (xtime (a ^^^ b) ^^^ (xtime (a ^^^ b) ^^^ (a ^^^ xtime (xtime (a ^^^ c)))))) := by ac_rfl
    _ = _ := by rw [xor_cancel_left, xor_cancel_left]

theorem mixColumn_mixColumn (a : Quad) :
    mixColumn (mixColumn a) =
      ⟨a.r0 ^^^ xtime (xtime (a.r0 ^^^ a.r2)), a.r1 ^^^ xtime (xtime (a.r1 ^^^ a.r3)),
       a.r2 ^^^ xtime (xtime (a.r2 ^^^ a.r0)), a.r3 ^^^ xtime (xtime (a.r3 ^^^ a.r1))⟩ := by
  rw [mixColumn_eq_quadSum (mixColumn a), quadSum_mixColumn, mixColumn_eq_quadSum a]
  simp only [mixRow_mixRow]

theorem mixColumn_four_times (a : Quad) : mixColumn (mixColumn (mixColumn (mixColumn a))) = a := by
  have hrow : ∀ x y : Byte, x ^^^ xtime (xtime (x ^^^ y)) ^^^
      xtime (xtime (x ^^^ xtime (xtime (x ^^^ y)) ^^^ (y ^^^ xtime (xtime (y ^^^ x))))) = x := fun x y => by
    have hsum : x ^^^ xtime (xtime (x ^^^ y)) ^^^ (y ^^^ xtime (xtime (y ^^^ x))) = x ^^^ y := by
      rw [BitVec.xor_comm y x, BitVec.xor_comm y (xtime _), xor_cancel_mid]
    rw [hsum, xor_cancel_right]
  rw [mixColumn_mixColumn (mixColumn (mixColumn a)), mixColumn_mixColumn a]
  simp only [hrow]

/-! ### InvMixColumns is the cube of MixColumns -/

theorem gfMul_nine_left (b : Byte) : gfMul 0x09#8 b = xtime (xtime (xtime b)) ^^^ b := by
  rw [show 0x09#8 = xtime (xtime (xtime 0x01#8)) ^^^ 0x01#8 by decide]
  simp only [gfMul_xor_left, gfMul_xtime_left, gfMul_one_left]

theorem gfMul_eleven_left (b : Byte) : gfMul 0x0B#8 b = xtime (xtime (xtime b)) ^^^ xtime b ^^^ b := by
  rw [show 0x0B#8 = xtime (xtime (xtime 0x01#8)) ^^^ xtime 0x01#8 ^^^ 0x01#8 by decide]
  simp only [gfMul_xor_left, gfMul_xtime_left, gfMul_one_left]

theorem gfMul_thirteen_left (b : Byte) :
    gfMul 0x0D#8 b = xtime (xtime (xtime b)) ^^^ xtime (xtime b) ^^^ b := by
  rw [show 0x0D#8 = xtime (xtime (xtime 0x01#8)) ^^^ xtime (xtime 0x01#8) ^^^ 0x01#8 by decide]
  simp only [gfMul_xor_left, gfMul_xtime_left, gfMul_one_left]

theorem gfMul_fourteen_left (b : Byte) :
    gfMul 0x0E#8 b = xtime (xtime (xtime b)) ^^^ xtime (xtime b) ^^^ xtime b := by
  rw [show 0x0E#8 = xtime (xtime (xtime 0x01#8)) ^^^ xtime (xtime 0x01#8) ^^^ xtime 0x01#8 by decide]
  simp only [gfMul_xor_left, gfMul_xtime_left, gfMul_one_left]

/-- One row of the cube: R166 with the square's rows of `a` and `b` in the place of two bytes. -/
theorem mixRow_of_square_eq (a b c d : Byte) {t : Byte} (ht : t = a ^^^ (b ^^^ c ^^^ d)) :
    a ^^^ xtime (xtime (a ^^^ c)) ^^^ t ^^^
        xtime (a ^^^ xtime (xtime (a ^^^ c)) ^^^ (b ^^^ xtime (xtime (b ^^^ d)))) =
      gfMul 0x0E#8 a ^^^ gfMul 0x0B#8 b ^^^ (gfMul 0x0D#8 c ^^^ gfMul 0x09#8 d) := by
  have hrest : a ^^^ t = b ^^^ c ^^^ d := by rw [ht, xor_cancel_left]
  rw [BitVec.xor_assoc a, BitVec.xor_comm _ t, ← BitVec.xor_assoc a, hrest]
  simp only [gfMul_nine_left, gfMul_eleven_left, gfMul_thirteen_left, gfMul_fourteen_left, xtime_xor]
  ac_rfl

theorem invMixColumn_eq_mixColumn_cubed (a : Quad) : invMixColumn a = mixColumn (mixColumn (mixColumn a)) := by
  obtain ⟨a0, a1, a2, a3⟩ := a
  rw [mixColumn_eq_quadSum (mixColumn _), quadSum_mixColumn, quadSum_mixColumn, mixColumn_mixColumn, invMixColumn,
    Quad.mk.injEq]
  refine ⟨((mixRow_of_square_eq a0 a1 a2 a3 ?_).trans ?_).symm, ((mixRow_of_square_eq a1 a2 a3 a0 ?_).trans ?_).symm,
    ((mixRow_of_square_eq a2 a3 a0 a1 ?_).trans ?_).symm, ((mixRow_of_square_eq a3 a0 a1 a2 ?_).trans ?_).symm⟩ <;>
    simp only [quadSum] <;> ac_rfl

@[simp] theorem invMixColumns_mixColumns (s : Block) : invMixColumns (mixColumns s) = s := by
  simp only [invMixColumns, mixColumns, invMixColumn_eq_mixColumn_cubed, mixColumn_four_times]

@[simp] theorem mixColumns_invMixColumns (s : Block) : mixColumns (invMixColumns s) = s := by
  simp only [invMixColumns, mixColumns, invMixColumn_eq_mixColumn_cubed, mixColumn_four_times]

end Sys2Proof.Machine
end

section
/-! PROOFS. The block cipher (R190 to R195): the middle rounds of decryption undo those of encryption and the other way
round, by the inverse pairs of the transforms; the outcome of a command on one block; and from these O31, O12 and
O13. -/

namespace Sys2Proof.Machine

/-! ### The middle rounds -/

/-- The last of the middle rounds of encryption, taken out (R190). -/
theorem encryptRounds_succ_last (rk : List Byte) (n r : Nat) (s : Block) :
    encryptRounds rk (n + 1) r s =
      addRoundKey (mixColumns (shiftRows (subBytes (encryptRounds rk n r s)))) rk (r + n) := by
  induction n generalizing r s with
  | zero => rfl
  | succ n ih =>
    rw [encryptRounds, ih, encryptRounds, Nat.add_right_comm, Nat.add_assoc]

/-- Decryption meets the State of encryption after SubBytes and ShiftRows, and leaves each round's so (R192). -/
theorem decryptRounds_encryptRounds (rk : List Byte) (n : Nat) (s : Block) :
    decryptRounds rk n (shiftRows (subBytes (encryptRounds rk n 1 s))) = shiftRows (subBytes s) := by
  induction n with
  | zero => rfl
  | succ n ih =>
    rw [decryptRounds, encryptRounds_succ_last, Nat.add_comm 1 n, invShiftRows_shiftRows, invSubBytes_subBytes,
      addRoundKey_addRoundKey, invMixColumns_mixColumns, ih]

/-- Encryption meets the State of decryption after InvShiftRows and InvSubBytes, and leaves each round's so (R192). -/
theorem encryptRounds_decryptRounds (rk : List Byte) (n : Nat) (s : Block) :
    encryptRounds rk n 1 (invSubBytes (invShiftRows (decryptRounds rk n s))) = invSubBytes (invShiftRows s) := by
  induction n generalizing s with
  | zero => rfl
  | succ n ih =>
    rw [encryptRounds_succ_last, decryptRounds, ih, Nat.add_comm 1 n, subBytes_invSubBytes, shiftRows_invShiftRows,
      mixColumns_invMixColumns, addRoundKey_addRoundKey]

/-! ### The whole cipher -/

theorem decryptBlock_encryptBlock (rk : List Byte) (x : Block) : decryptBlock rk (encryptBlock rk x) = x := by
  simp only [decryptBlock, encryptBlock, addRoundKey_addRoundKey, decryptRounds_encryptRounds,
    invShiftRows_shiftRows, invSubBytes_subBytes]

theorem encryptBlock_decryptBlock (rk : List Byte) (x : Block) : encryptBlock rk (decryptBlock rk x) = x := by
  simp only [decryptBlock, encryptBlock, addRoundKey_addRoundKey, encryptRounds_decryptRounds,
    subBytes_invSubBytes, shiftRows_invShiftRows]

/-- Settles O31: the outer rounds' keys cancel, and between them the middle rounds undo each other. -/
theorem blockCipherIsInvertible : Obligations.BlockCipherIsInvertible := by
  unfold Obligations.BlockCipherIsInvertible
  exact fun rk x => ⟨decryptBlock_encryptBlock rk x, encryptBlock_decryptBlock rk x⟩

/-! ### The block commands -/

/-- A command that needs a schedule and outputs one block (R194, R195), from issue to completion. -/
theorem blockCommand_of_outcome {i : Instr} {s : State} {x : Block} (hidle : s.phase = .idle)
    (ho : outcomeOf i (snapshot s) = if s.keyv = false then .fail .keyNotReady else okOut (blockBytes x)) :
    (s.keyv = false → CommandFails i s .keyNotReady) ∧ (s.keyv = true → CommandOutputs i s (blockBytes x)) := by
  refine ⟨fun hkeyv => commandFails_of_outcome hidle ?_, fun hkeyv => commandOutputs_of_outcome hidle ?_ ?_⟩
  · rw [ho, if_pos hkeyv]
  · rw [length_blockBytes]
    decide
  · rw [ho, if_neg (by simp [hkeyv])]

/-- Settles O12: the outcome of ENC_BLOCK reads only KEYV, the schedule and the first block of IN_BUF. -/
theorem encBlockOutputsTheCiphertext : Obligations.EncBlockOutputsTheCiphertext := by
  unfold Obligations.EncBlockOutputsTheCiphertext
  exact ⟨hasOpcode_of_instrOf fun _ => rfl, fun _ _ hidle => blockCommand_of_outcome hidle rfl⟩

/-- Settles O13: the outcome of DEC_BLOCK reads only KEYV, the schedule and the first block of IN_BUF. -/
theorem decBlockOutputsThePlaintext : Obligations.DecBlockOutputsThePlaintext := by
  unfold Obligations.DecBlockOutputsThePlaintext
  exact ⟨hasOpcode_of_instrOf fun _ => rfl, fun _ _ hidle => blockCommand_of_outcome hidle rfl⟩

end Sys2Proof.Machine
end

section
/-! PROOFS. CBC (R210 to R215): block `j` of the encryption chain; when Unpad takes a byte sequence; what the three
commands on whole blocks have in common from issue to completion; and from these O33, O15, O16 and O17. -/

namespace Sys2Proof.Machine

/-! ### The encryption chain (R210) -/

@[simp] theorem getElem_blocksOf (l : List Byte) (m : Nat) {j : Nat} (h : j < (blocksOf l m).length) :
    (blocksOf l m)[j] = blockAt l j := by
  simp [blocksOf]

/-- The block before block `j` of a chain that starts from `iv`: `iv` itself, or block `j - 1` of the chain's bytes. -/
theorem getElem_cons_eq_blockAt (iv : Block) (bs : List Block) {j : Nat} (h : j < (iv :: bs).length) :
    (iv :: bs)[j] = if j = 0 then iv else blockAt (bytesOfBlocks bs) (j - 1) := by
  cases j with
  | zero => rfl
  | succ j =>
    have hj : j < bs.length := by simpa using h
    rw [if_neg (Nat.succ_ne_zero j), Nat.add_sub_cancel, blockAt_bytesOfBlocks bs j hj, List.getElem_cons_succ]

theorem getElem_cbcEncryptChain (rk : List Byte) (prev : Block) (bs : List Block) {j : Nat} (h : j < bs.length)
    (hc : j < (cbcEncryptChain rk prev bs).length) :
    (cbcEncryptChain rk prev bs)[j] =
      encryptBlock rk (xorBlock bs[j] ((prev :: cbcEncryptChain rk prev bs)[j]'(Nat.lt_succ_of_lt hc))) := by
  induction bs generalizing prev j with
  | nil => cases h
  | cons x r ih =>
    cases j with
    | zero => rfl
    | succ j => exact ih (encryptBlock rk (xorBlock x prev)) (Nat.lt_of_succ_lt_succ h) (Nat.lt_of_succ_lt_succ hc)

/-- Settles O33: block `j` of the ciphertext is element `j` of the chain, and the block before it is the element before
or the IV. -/
theorem cbcEncryptionChains : Obligations.CbcEncryptionChains := by
  unfold Obligations.CbcEncryptionChains
  intro rk iv p hwhole
  refine ⟨by rw [length_cbcEncryptBlocks]; omega, fun j hj => ?_⟩
  have hblocks : j < (blocksOf p (p.length / 16)).length := by simpa using hj
  have hchain : j < (cbcEncryptChain rk iv (blocksOf p (p.length / 16))).length := by simpa using hj
  rw [cbcEncryptBlocks, blockAt_bytesOfBlocks _ j hchain, getElem_cbcEncryptChain rk iv _ hblocks hchain,
    getElem_blocksOf, getElem_cons_eq_blockAt]

/-! ### Which byte sequences Unpad takes (R241) -/

theorem all_drop_eq_true_iff (d : List Byte) (m p : Nat) :
    (d.drop m).all (fun b => b.toNat = p) = true ↔ ∀ i, m ≤ i → i < d.length → (byteAt d i).toNat = p := by
  simp only [List.all_eq_true, decide_eq_true_eq]
  constructor
  · intro hall i hm hi
    have hmem : byteAt d i ∈ d.drop m := by
      rw [byteAt, List.getD_eq_getElem d _ hi]
      exact List.mem_drop_iff_getElem.2 ⟨i - m, by omega, by congr 1; omega⟩
    exact hall _ hmem
  · intro hbyte b hb
    obtain ⟨i, hi, rfl⟩ := List.mem_drop_iff_getElem.1 hb
    have hi' : m + i < d.length := by omega
    rw [← hbyte (m + i) (by omega) hi', byteAt, List.getD_eq_getElem d _ hi']

/-- A good pad is what the last two tests of Unpad let pass. -/
theorem goodPad_iff (d : List Byte) (n : Nat) :
    GoodPad d n ↔ ¬ (claimedPad d = 0 ∨ claimedPad d > n ∨ claimedPad d > d.length) ∧
      (d.drop (d.length - claimedPad d)).all (fun b => b.toNat = claimedPad d) = true := by
  rw [all_drop_eq_true_iff, GoodPad, ← and_assoc, ← and_assoc]
  exact and_congr_left fun _ => by omega

theorem unpadBytes_of_goodPad {d : List Byte} {n : Nat} (hn : 1 ≤ n) (hn' : n ≤ 255) (hpos : 0 < d.length)
    (hwhole : d.length % n = 0) (hgood : GoodPad d n) :
    unpadBytes d n = .ok (d.take (d.length - claimedPad d)) := by
  obtain ⟨hrange, hbytes⟩ := (goodPad_iff d n).1 hgood
  rw [unpadBytes, if_neg (by omega), if_neg (by omega)]
  exact (if_neg hrange).trans (if_pos hbytes)

theorem unpadBytes_of_not_goodPad {d : List Byte} {n : Nat} (hn : 1 ≤ n) (hn' : n ≤ 255)
    (hbad : ¬ (0 < d.length ∧ d.length % n = 0 ∧ GoodPad d n)) :
    unpadBytes d n = .error .invalidPadding := by
  rw [unpadBytes, if_neg (by omega)]
  by_cases hlen : d.length = 0 ∨ d.length % n ≠ 0
  · rw [if_pos hlen]
  · rw [if_neg hlen]
    by_cases hrange : claimedPad d = 0 ∨ claimedPad d > n ∨ claimedPad d > d.length
    · exact if_pos hrange
    · exact (if_neg hrange).trans
        (if_neg fun hbytes => hbad ⟨by omega, by omega, (goodPad_iff d n).2 ⟨hrange, hbytes⟩⟩)

/-! ### The commands on whole blocks -/

/-- The three errors CBC_DEC, CBC_ENC_NOPAD and CBC_DEC_NOPAD check first, in order, and then `o` (R213 to R215). -/
def outcomeOnWholeBlocks (s : State) (o : CmdOutcome) : CmdOutcome :=
  if s.keyv = false then .fail .keyNotReady
  else if lengthIn s > s.bufBytes then .fail .lengthRange
  else if lengthIn s = 0 ∨ lengthIn s % 16 ≠ 0 then .fail .invalidBufferLength
  else o

/-- A command of that outcome, from issue to completion: the three errors, and for a legal length what `o` gives. -/
theorem wholeBlocksCommand_of_outcome {i : Instr} {s : State} {o : CmdOutcome} {result : Prop} (hidle : s.phase = .idle)
    (ho : outcomeOf i (snapshot s) = outcomeOnWholeBlocks s o)
    (hresult : 0 < lengthIn s → lengthIn s % 16 = 0 → outcomeOf i (snapshot s) = o → result) :
    (s.keyv = false → CommandFails i s .keyNotReady) ∧
    (s.keyv = true → s.bufBytes < lengthIn s → CommandFails i s .lengthRange) ∧
    (s.keyv = true → lengthIn s ≤ s.bufBytes → lengthIn s = 0 ∨ lengthIn s % 16 ≠ 0 →
      CommandFails i s .invalidBufferLength) ∧
    (s.keyv = true → lengthIn s ≤ s.bufBytes → 0 < lengthIn s → lengthIn s % 16 = 0 → result) := by
  refine ⟨fun hkeyv => commandFails_of_outcome hidle ?_, fun hkeyv hover => commandFails_of_outcome hidle ?_,
    fun hkeyv hcap hlen => commandFails_of_outcome hidle ?_,
    fun hkeyv hcap hpos hwhole => hresult hpos hwhole ?_⟩ <;> rw [ho, outcomeOnWholeBlocks]
  · rw [if_pos hkeyv]
  · rw [if_neg (by simp [hkeyv]), if_pos hover]
  · rw [if_neg (by simp [hkeyv]), if_neg (by omega), if_pos hlen]
  · rw [if_neg (by simp [hkeyv]), if_neg (by omega), if_neg (by omega)]

theorem lengthIn_lt (s : State) : lengthIn s < 2 ^ 32 := s.inLen.isLt

@[simp] theorem length_dataIn (s : State) : (dataIn s).length = lengthIn s := Memory.length_bytes _ _

/-! ### CBC_ENC_NOPAD and CBC_DEC_NOPAD -/

/-- The whole blocks of an input of a legal length are all of it (R214, R215). -/
theorem wholeBlocks_output {i : Instr} {s : State} {out : List Byte} (hidle : s.phase = .idle)
    (hout : out.length = 16 * (lengthIn s / 16)) (hwhole : lengthIn s % 16 = 0)
    (ho : outcomeOf i (snapshot s) = okOut out) : out.length = lengthIn s ∧ CommandOutputs i s out := by
  have hlen : out.length = lengthIn s := by omega
  exact ⟨hlen, commandOutputs_of_outcome hidle (hlen ▸ lengthIn_lt s) ho⟩

/-- Settles O16: after the three errors the outcome is the encryption chain over IN_BUF[0..IN_LEN). -/
theorem cbcEncNoPadChains : Obligations.CbcEncNoPadChains := by
  unfold Obligations.CbcEncNoPadChains
  refine ⟨hasOpcode_of_instrOf fun _ => rfl, fun s _ hidle => ?_⟩
  have hout : (cbcEncryptBlocks (rkIn s) s.iv (dataIn s)).length = 16 * (lengthIn s / 16) := by simp
  exact wholeBlocksCommand_of_outcome hidle rfl fun _ => wholeBlocks_output hidle hout

/-- Settles O17: after the three errors the outcome is the decryption chain over IN_BUF[0..IN_LEN). -/
theorem cbcDecNoPadChains : Obligations.CbcDecNoPadChains := by
  unfold Obligations.CbcDecNoPadChains
  refine ⟨hasOpcode_of_instrOf fun _ => rfl, fun s _ hidle => ?_⟩
  have hout : (cbcDecryptBlocks (rkIn s) s.iv (dataIn s)).length = 16 * (lengthIn s / 16) := by simp
  exact wholeBlocksCommand_of_outcome hidle rfl fun _ => wholeBlocks_output hidle hout

/-! ### CBC_DEC -/

/-- The outcome that Unpad's answer gives CBC_DEC (R213). -/
def outcomeOfUnpad : Except ErrCode (List Byte) → CmdOutcome
  | .error e => .fail e
  | .ok l => okOut l

theorem outcomeOf_cbcDec (b : Nat) (s : State) :
    outcomeOf (.cbcDec b) (snapshot s) =
      outcomeOnWholeBlocks s (outcomeOfUnpad (unpadBytes (cbcDecryptBlocks (rkIn s) s.iv (dataIn s)) 16)) := rfl

/-- Settles O15: past the three errors, the decrypted chain has IN_LEN bytes, so Unpad's answer turns on its pad
alone. -/
theorem cbcDecChainsAndUnpads : Obligations.CbcDecChainsAndUnpads := by
  unfold Obligations.CbcDecChainsAndUnpads
  refine ⟨hasOpcode_of_instrOf fun _ => rfl, fun s b hidle => ?_⟩
  refine wholeBlocksCommand_of_outcome hidle (outcomeOf_cbcDec b s) fun hpos hwhole ho => ?_
  have hq : (cbcDecryptBlocks (rkIn s) s.iv (dataIn s)).length = lengthIn s := by
    rw [length_cbcDecryptBlocks, length_dataIn]
    omega
  refine ⟨fun hbad => commandFails_of_outcome hidle ?_, fun hgood => commandOutputs_of_outcome hidle ?_ ?_⟩
  · rw [ho, unpadBytes_of_not_goodPad (by omega) (by omega) fun ⟨_, _, hgood⟩ => hbad hgood]
    rfl
  · have hlt := lengthIn_lt s
    rw [List.length_take]
    omega
  · rw [ho, unpadBytes_of_goodPad (by omega) (by omega) (hq ▸ hpos) (hq ▸ hwhole) hgood, hq]
    rfl

end Sys2Proof.Machine
end

section
/-! PROOFS. PKCS#7 (R240 to R245): what Pad and Unpad answer for each block size; the least multiple above a length;
what PAD and UNPAD do past their length check; and from these O35, O36, O18 and O19. -/

namespace Sys2Proof.Machine

/-! ### Pad and Unpad on byte sequences (R240 to R242) -/

theorem padBytes_of_bad_size (d : List Byte) {n : Nat} (h : n = 0 ∨ 255 < n) :
    padBytes d n = .error .invalidBlockSize := if_pos h

theorem unpadBytes_of_bad_size (d : List Byte) {n : Nat} (h : n = 0 ∨ 255 < n) :
    unpadBytes d n = .error .invalidBlockSize := if_pos h

/-- A sequence with its pad for block size `n` (R240). -/
def withPad (d : List Byte) (n : Nat) : List Byte :=
  d ++ List.replicate (n - d.length % n) (BitVec.ofNat 8 (n - d.length % n))

@[simp] theorem length_withPad (d : List Byte) (n : Nat) :
    (withPad d n).length = d.length + (n - d.length % n) := by
  simp [withPad]

theorem padBytes_of_good_size (d : List Byte) {n : Nat} (h : 1 ≤ n) (h' : n ≤ 255) :
    padBytes d n = .ok (withPad d n) := by
  rw [padBytes, if_neg (by omega), padLength_eq _ h, withPad]

/-- A length with its pad is `n` times one more than the whole blocks it holds. -/
theorem add_sub_mod_eq_mul (l : Nat) {n : Nat} (h : 1 ≤ n) : l + (n - l % n) = n * (l / n + 1) := by
  have hrem := Nat.mod_lt l h
  have hdiv := Nat.div_add_mod l n
  rw [Nat.mul_succ]
  omega

/-- Settles O35: the padded length is `n * (len / n + 1)`, and a multiple `n * k` above `len` has `len / n < k`. -/
theorem padReachesTheNextMultiple : Obligations.PadReachesTheNextMultiple := by
  unfold Obligations.PadReachesTheNextMultiple
  intro d n
  refine ⟨padBytes_of_bad_size d, fun h h' => ?_⟩
  have hrem := Nat.mod_lt d.length h
  refine ⟨n - d.length % n, by omega, by omega, padBytes_of_good_size d h h', ?_, fun m hm hmult => ?_⟩ <;>
    rw [add_sub_mod_eq_mul _ h]
  · exact Nat.mul_mod_right n _
  · obtain ⟨k, rfl⟩ := Nat.dvd_of_mod_eq_zero hmult
    exact Nat.mul_le_mul_left n (Nat.div_lt_of_lt_mul hm)

/-- Settles O36, from the three cases of Unpad. -/
theorem unpadAcceptsExactlyGoodPads : Obligations.UnpadAcceptsExactlyGoodPads := by
  unfold Obligations.UnpadAcceptsExactlyGoodPads
  exact fun d _ => ⟨unpadBytes_of_bad_size d,
    fun h h' ⟨hpos, hwhole, hgood⟩ => unpadBytes_of_goodPad h h' hpos hwhole hgood, unpadBytes_of_not_goodPad⟩

/-! ### PAD (R244) -/

/-- The outcome that Pad's answer gives PAD, with room for `cap` bytes of output (R244). -/
def outcomeOfPad (cap : Nat) : Except ErrCode (List Byte) → CmdOutcome
  | .error e => .fail e
  | .ok l => if l.length > cap then .fail .outputOverflow else okOut l

theorem outcomeOf_pad (b : Nat) (s : State) :
    outcomeOf (.pad b) (snapshot s) =
      if lengthIn s > s.bufBytes then .fail .lengthRange
      else outcomeOfPad s.bufBytes (padBytes (dataIn s) b) := rfl

/-- Settles O18: past the length check the outcome is that of Pad's answer, which for a good block size has
`IN_LEN + p` bytes. -/
theorem padAppendsThePad : Obligations.PadAppendsThePad := by
  unfold Obligations.PadAppendsThePad
  refine ⟨hasOpcode_of_instrOf fun _ => rfl, fun s b hidle ⟨_, hcap, _⟩ => ?_⟩
  have hlen : (withPad (dataIn s) b).length = lengthIn s + (b - lengthIn s % b) := by simp
  have hbytes : withPad (dataIn s) b =
      dataIn s ++ List.replicate (b - lengthIn s % b) (BitVec.ofNat 8 (b - lengthIn s % b)) := by
    rw [withPad, length_dataIn]
  refine ⟨fun hover => commandFails_of_outcome hidle ?_, fun hin hsize => commandFails_of_outcome hidle ?_,
    fun hin h h' hover => commandFails_of_outcome hidle ?_,
    fun h h' hfits => hbytes ▸ commandOutputs_of_outcome hidle (by omega) ?_⟩ <;> rw [outcomeOf_pad]
  · rw [if_pos hover]
  · rw [if_neg (by omega), padBytes_of_bad_size _ hsize, outcomeOfPad]
  · rw [if_neg (by omega), padBytes_of_good_size _ h h', outcomeOfPad, if_pos (by omega)]
  · rw [if_neg (by omega), padBytes_of_good_size _ h h', outcomeOfPad, if_neg (by omega)]

/-! ### UNPAD (R245) -/

theorem outcomeOf_unpad (b : Nat) (s : State) :
    outcomeOf (.unpad b) (snapshot s) =
      if lengthIn s > s.bufBytes then .fail .lengthRange
      else outcomeOfUnpad (unpadBytes (dataIn s) b) := rfl

/-- Settles O19: past the length check the outcome is that of Unpad's answer on IN_BUF[0..IN_LEN). -/
theorem unpadStripsThePad : Obligations.UnpadStripsThePad := by
  unfold Obligations.UnpadStripsThePad
  refine ⟨hasOpcode_of_instrOf fun _ => rfl, fun s b hidle => ?_⟩
  have hlen := length_dataIn s
  refine ⟨fun hover => commandFails_of_outcome hidle ?_, fun hin hsize => commandFails_of_outcome hidle ?_,
    fun hin h h' hbad => commandFails_of_outcome hidle ?_,
    fun hin h h' hpos hwhole hgood => commandOutputs_of_outcome hidle ?_ ?_⟩
  · rw [outcomeOf_unpad, if_pos hover]
  · rw [outcomeOf_unpad, if_neg (by omega), unpadBytes_of_bad_size _ hsize, outcomeOfUnpad]
  · have hnot : ¬ (0 < (dataIn s).length ∧ (dataIn s).length % b = 0 ∧ GoodPad (dataIn s) b) := by
      rw [hlen]
      rintro ⟨hpos, hwhole, hgood⟩
      rcases hbad with hzero | hpart | hpad
      · omega
      · exact hpart hwhole
      · exact hpad hgood
    rw [outcomeOf_unpad, if_neg (by omega), unpadBytes_of_not_goodPad h h' hnot, outcomeOfUnpad]
  · have hlt := lengthIn_lt s
    rw [List.length_take]
    omega
  · rw [outcomeOf_unpad, if_neg (by omega), unpadBytes_of_goodPad h h' (hlen ▸ hpos) (hlen ▸ hwhole) hgood,
      outcomeOfUnpad, hlen]

end Sys2Proof.Machine
end

section
/-! PROOFS. The controller's own commands (R262, R266, R267): a CMD write on a busy core is dropped; NOP and ZEROIZE
from issue to completion, and STATUS and irq after a success; and from these O6, O8 and O9. -/

namespace Sys2Proof.Machine

/-! ### A CMD write on a busy core (R262) -/

theorem exec_of_busy {s : State} {o : CmdOutcome} (h : s.phase = .busy o) (i : Instr) :
    exec i s = .next { s with wib := true } := by
  rw [exec_eq_issue, issue_of_busy s _ h]

theorem runWord_of_busy {s : State} {o : CmdOutcome} (h : s.phase = .busy o) (w : Word) :
    runWord w s = .next { s with wib := true } := by
  obtain ⟨p, hp⟩ := runWord_eq_issue w s
  rw [hp, issue_of_busy s p h]

/-- Out of reset, a full write to CMD is answered OKAY and runs its word (R66). -/
theorem step_cmd_write {s : State} (hr : s.inReset = false) (w : Word) :
    step (before (.write 0x008#14 0b1111#4 w) s) = runWord w (answer (.written .okay) s) :=
  step_full_control_write hr w (by decide) (by decide)

/-- Settles O6: whatever outcome a command or a word would have, its issue on a busy core only sets WIB. -/
theorem busyCoreDropsACommand : Obligations.BusyCoreDropsACommand := by
  unfold Obligations.BusyCoreDropsACommand
  refine fun s o hbusy => ⟨exec_of_busy hbusy, fun w hr _ => ?_⟩
  have hbusy' : (answer (.written .okay) s).phase = .busy o := hbusy
  rw [step_cmd_write hr, runWord_of_busy hbusy']
  rfl

/-! ### NOP (R266) -/

theorem phase_issue_of_idle {s : State} (o : CmdOutcome) (h : s.phase = .idle) : (issue o s).phase = .busy o := by
  rw [issue_of_idle s o h]

theorem complete_nop {t : State} (h : t.phase = .busy outcomeNop) :
    Completed .none (complete t) ∧ SameButLifecycle t (complete t) := by
  rw [complete_of_busy t h]
  exact ⟨⟨rfl, rfl, rfl⟩, by constructor <;> rfl⟩

/-- After a success STATUS reads DONE, and KEYV and WIB as they are (R25). -/
theorem statusWord_of_completed {u : State} (h : Completed .none u) :
    statusWord u =
      0x00000002#32 ||| (if u.keyv then 0x00000008#32 else 0) ||| (if u.wib then 0x00000010#32 else 0) := by
  have herr : errFlag u = false := by simp [errFlag, h.errcode, errNumber]
  rw [statusWord, herr, h.done, isBusy_of_idle u h.idle]
  cases u.keyv <;> cases u.wib <;> rfl

/-- A completion raises irq if IE is 1 out of reset (R308). -/
theorem irq_of_completed {u : State} {c : ErrCode} (h : Completed c u) (hie : u.ie = true) (hr : u.inReset = false) :
    irq u = true := by
  simp [irq, h.done, hie, hr]

/-- Settles O8: neither the issue nor the commit of NOP changes more than the lifecycle, so STATUS and irq follow from
the completion and from KEYV, WIB, IE and `rst_n` as they were. -/
theorem nopOnlyCompletes : Obligations.NopOnlyCompletes := by
  unfold Obligations.NopOnlyCompletes
  refine ⟨hasOpcode_of_instrOf fun _ => rfl, fun s b hidle => ?_⟩
  have hissued := issue_same_of_idle outcomeNop hidle
  obtain ⟨hdone, hkept⟩ := complete_nop (phase_issue_of_idle outcomeNop hidle)
  have hsame := hissued.same.trans hkept
  have hexec : exec (.nop b) s = .next (issue outcomeNop s) := exec_eq_issue (.nop b) s
  refine ⟨⟨_, hexec, hissued, hdone, hsame⟩, _, hexec, ?status, fun hie hr => ?irq⟩
  case status => rw [statusWord_of_completed hdone, hsame.keyv, hsame.wib]
  case irq => exact irq_of_completed hdone (hsame.ie.trans hie) (hsame.inReset.trans hr)

/-! ### ZEROIZE (R267) -/

theorem blockByte_zeroBlock (i : Nat) : blockByte zeroBlock i = 0x00#8 := by
  have hbytes : blockBytes zeroBlock = List.replicate 16 0x00#8 := rfl
  rw [blockByte, byteAt, hbytes, List.getD_eq_getElem?_getD, List.getElem?_getD_replicate_default_eq]

/-- `t` is `s` after a ZEROIZE, but for what the lifecycle itself moves (R267): the registers, buffers and internal
stores that the command clears, and the rest kept. -/
structure Zeroized (s t : State) : Prop where
  key : t.key = zeroBlock
  iv : t.iv = zeroBlock
  inBuf : t.inBuf = ⟨.zero, []⟩
  outBuf : t.outBuf = ⟨.zero, []⟩
  rk : t.rk = ⟨.zero, []⟩
  inLen : t.inLen = 0
  outLen : t.outLen = 0
  keyv : t.keyv = false
  ie : t.ie = s.ie
  wib : t.wib = s.wib
  bufBytes : t.bufBytes = s.bufBytes
  inReset : t.inReset = s.inReset
  events : t.events = s.events
  answers : t.answers = s.answers

theorem complete_zeroize {t : State} (h : t.phase = .busy outcomeZeroize) :
    Completed .none (complete t) ∧ Zeroized t (complete t) := by
  rw [complete_of_busy t h]
  exact ⟨⟨rfl, rfl, rfl⟩, by constructor <;> rfl⟩

theorem Zeroized.of_lifecycle {s t u : State} (h : SameButLifecycle s t) (k : Zeroized t u) : Zeroized s u :=
  { k with
    ie := k.ie.trans h.ie
    wib := k.wib.trans h.wib
    bufBytes := k.bufBytes.trans h.bufBytes
    inReset := k.inReset.trans h.inReset
    events := k.events.trans h.events
    answers := k.answers.trans h.answers }

/-- Every byte of the windows and stores that ZEROIZE clears reads 0, at whatever index. -/
theorem Zeroized.bytes {s t : State} (h : Zeroized s t) (i : Nat) :
    blockByte t.key i = 0 ∧ blockByte t.iv i = 0 ∧ t.inBuf.read i = 0 ∧ t.outBuf.read i = 0 ∧ t.rk.read i = 0 := by
  rw [h.key, h.iv, h.inBuf, h.outBuf, h.rk]
  exact ⟨blockByte_zeroBlock i, blockByte_zeroBlock i, Memory.read_zero i, Memory.read_zero i, Memory.read_zero i⟩

/-- Settles O9: the issue of ZEROIZE keeps all but the lifecycle, and its commit is the clearing of R267. -/
theorem zeroizeClearsTheCore : Obligations.ZeroizeClearsTheCore := by
  unfold Obligations.ZeroizeClearsTheCore
  refine ⟨hasOpcode_of_instrOf fun _ => rfl, fun s b hidle => ?_⟩
  have hissued := issue_same_of_idle outcomeZeroize hidle
  obtain ⟨hdone, hkept⟩ := complete_zeroize (phase_issue_of_idle outcomeZeroize hidle)
  have hclear := Zeroized.of_lifecycle hissued.same hkept
  exact ⟨_, exec_eq_issue (.zeroize b) s, hissued, hdone, hclear.bytes, hclear.inLen, hclear.outLen, hclear.keyv,
    hclear.ie, hclear.wib, hclear.bufBytes, hclear.inReset, hclear.events, hclear.answers⟩

end Sys2Proof.Machine
end

section
/-! PROOFS. Errors (R300 to R304): the code every completion reports; the checks of each command in ascending order,
of which the first to fail is the lowest error; and from these O20 and O21. -/

namespace Sys2Proof.Machine

/-! ### The code a completion reports (R263, R264, R302) -/

/-- The code an outcome reports: 0 for a success (R302). -/
def codeOf : CmdOutcome → ErrCode
  | .fail c => c
  | .ok _ => .none

theorem commitOk_errcode (r : CmdResult) (s : State) : (commitOk r s).errcode = .none := by
  obtain ⟨out, rk, zeroize⟩ := r
  cases out <;> cases rk <;> cases zeroize <;> rfl

theorem commit_errcode (o : CmdOutcome) (s : State) : (commit o s).errcode = codeOf o := by
  cases o with
  | fail c => rfl
  | ok r => exact commitOk_errcode r s

theorem completed_of_busy {s : State} {o : CmdOutcome} (h : s.phase = .busy o) : Completed (codeOf o) (complete s) := by
  rw [complete_of_busy s h]
  exact ⟨rfl, rfl, commit_errcode o s⟩

theorem completed_issue {s : State} (o : CmdOutcome) (h : s.phase = .idle) :
    Completed (codeOf o) (complete (issue o s)) :=
  completed_of_busy (phase_issue_of_idle o h)

/-! ### Checks in ascending order (R303) -/

/-- Of the checks of `l`, made in order, the code reported is that of the first whose condition holds, and 0 when none
does. -/
inductive Reports : List (ErrCode × Prop) → ErrCode → Prop
  | none : Reports [] .none
  | fails {c : ErrCode} {p : Prop} {l : List (ErrCode × Prop)} : p → Reports ((c, p) :: l) c
  | passes {c code : ErrCode} {p : Prop} {l : List (ErrCode × Prop)} :
      ¬ p → Reports l code → Reports ((c, p) :: l) code

/-- A test of a semantic function is the next check. -/
theorem Reports.test {c : ErrCode} {p : Prop} [Decidable p] {l : List (ErrCode × Prop)} {o : CmdOutcome}
    (h : ¬ p → Reports l (codeOf o)) : Reports ((c, p) :: l) (codeOf (if p then .fail c else o)) := by
  by_cases hp : p
  · rw [if_pos hp]
    exact .fails hp
  · rw [if_neg hp]
    exact .passes hp (h hp)

/-- The code numbers of the checks do not fall. -/
abbrev Ascending (l : List (ErrCode × Prop)) : Prop :=
  l.Pairwise fun x y => (errNumber x.1).toNat ≤ (errNumber y.1).toNat

/-- The first check to fail has the lowest number. -/
theorem Reports.lowest {l : List (ErrCode × Prop)} {code : ErrCode} (h : Reports l code) (hl : Ascending l) :
    (code = .none ∧ ∀ x ∈ l, ¬ x.2) ∨
      ((∃ x ∈ l, x.1 = code ∧ x.2) ∧ ∀ x ∈ l, x.2 → (errNumber code).toNat ≤ (errNumber x.1).toNat) := by
  induction h with
  | none => exact .inl ⟨rfl, nofun⟩
  | @fails c p l hp =>
    obtain ⟨hfirst, -⟩ := List.pairwise_cons.1 hl
    refine .inr ⟨⟨(c, p), by simp, rfl, hp⟩, fun x hx _ => ?_⟩
    rcases List.mem_cons.1 hx with rfl | hx
    · exact Nat.le_refl _
    · exact hfirst x hx
  | @passes c code p l hp _ ih =>
    rcases ih hl.of_cons with ⟨hcode, hnone⟩ | ⟨⟨x, hx, hcode, hxp⟩, hleast⟩
    · exact .inl ⟨hcode, List.forall_mem_cons.2 ⟨hp, hnone⟩⟩
    · exact .inr ⟨⟨x, by simp [hx], hcode, hxp⟩, List.forall_mem_cons.2 ⟨(absurd · hp), hleast⟩⟩

/-! ### The checks of each command (R300) -/

/-- The error conditions of R300 that name the command, by rising code. -/
def errorChecks (s : State) : Instr → List (ErrCode × Prop)
  | .nop _ | .keyExpand _ | .zeroize _ => []
  | .encBlock _ | .decBlock _ => [(.keyNotReady, s.keyv = false)]
  | .cbcEnc _ =>
    [(.keyNotReady, s.keyv = false), (.lengthRange, s.bufBytes < lengthIn s),
      (.outputOverflow, s.bufBytes < 16 * (lengthIn s / 16 + 1))]
  | .cbcDec _ =>
    [(.keyNotReady, s.keyv = false), (.lengthRange, s.bufBytes < lengthIn s),
      (.invalidBufferLength, lengthIn s = 0 ∨ lengthIn s % 16 ≠ 0),
      (.invalidPadding, ¬ GoodPad (cbcDecryptBlocks (rkIn s) s.iv (dataIn s)) 16)]
  | .cbcEncNoPad _ | .cbcDecNoPad _ =>
    [(.keyNotReady, s.keyv = false), (.lengthRange, s.bufBytes < lengthIn s),
      (.invalidBufferLength, lengthIn s = 0 ∨ lengthIn s % 16 ≠ 0)]
  | .pad b =>
    [(.lengthRange, s.bufBytes < lengthIn s), (.invalidBlockSize, b = 0 ∨ 255 < b),
      (.outputOverflow, s.bufBytes < lengthIn s + (b - lengthIn s % b))]
  | .unpad b =>
    [(.lengthRange, s.bufBytes < lengthIn s), (.invalidBlockSize, b = 0 ∨ 255 < b),
      (.invalidPadding, lengthIn s = 0 ∨ lengthIn s % b ≠ 0 ∨ ¬ GoodPad (dataIn s) b)]
  | .reservedB _ | .reservedC _ | .reservedD _ | .reservedE _ | .reservedF _ => [(.illegalCmd, True)]

/-- The checks of a command are the conditions of R300 that can hold for it: the table by commands and the table by
codes have the same entries. -/
theorem errorHolds_iff (i : Instr) (s : State) (c : ErrCode) :
    errorHolds i s c ↔ ∃ x ∈ errorChecks s i, x.1 = c ∧ x.2 := by
  cases i <;> cases c <;> simp [errorHolds, errorChecks, needsKey, Instr.bsz]

theorem errorChecks_ascending (i : Instr) (s : State) : Ascending (errorChecks s i) := by
  cases i <;> simp [errorChecks, errNumber]

/-! ### The semantic functions make these checks (R194, R195, R212 to R215, R244, R245, R268) -/

/-- PAD refuses a bad block size, and otherwise the padded data that does not fit (R244). -/
theorem reports_outcomeOfPad (s : State) (b : Nat) :
    Reports [(.invalidBlockSize, b = 0 ∨ 255 < b),
      (.outputOverflow, s.bufBytes < lengthIn s + (b - lengthIn s % b))]
      (codeOf (outcomeOfPad s.bufBytes (padBytes (dataIn s) b))) := by
  by_cases hsize : b = 0 ∨ 255 < b
  · rw [padBytes_of_bad_size _ hsize]
    exact .fails hsize
  · rw [padBytes_of_good_size _ (by omega) (by omega), ← length_dataIn, ← length_withPad]
    exact .passes hsize (.test fun _ => .none)

/-- With a good block size, Unpad refuses exactly the data that is not whole blocks with a good pad (R241). -/
theorem reports_unpad_of_good_size (d : List Byte) {b : Nat} (h : 1 ≤ b) (h' : b ≤ 255) :
    Reports [(.invalidPadding, d.length = 0 ∨ d.length % b ≠ 0 ∨ ¬ GoodPad d b)]
      (codeOf (outcomeOfUnpad (unpadBytes d b))) := by
  by_cases hbad : d.length = 0 ∨ d.length % b ≠ 0 ∨ ¬ GoodPad d b
  · have hnot : ¬ (0 < d.length ∧ d.length % b = 0 ∧ GoodPad d b) := by
      rintro ⟨hpos, hwhole, hgood⟩
      exact hbad.elim hpos.ne' fun hrest => hrest.elim (· hwhole) (· hgood)
    rw [unpadBytes_of_not_goodPad h h' hnot]
    exact .fails hbad
  · obtain ⟨hpos, hwhole, hgood⟩ : d.length ≠ 0 ∧ d.length % b = 0 ∧ GoodPad d b := by
      simpa only [not_or, ne_eq, not_not] using hbad
    rw [unpadBytes_of_goodPad h h' (by omega) hwhole hgood]
    exact .passes hbad .none

theorem reports_outcomeOfUnpad (d : List Byte) (b : Nat) :
    Reports [(.invalidBlockSize, b = 0 ∨ 255 < b),
      (.invalidPadding, d.length = 0 ∨ d.length % b ≠ 0 ∨ ¬ GoodPad d b)]
      (codeOf (outcomeOfUnpad (unpadBytes d b))) := by
  by_cases hsize : b = 0 ∨ 255 < b
  · rw [unpadBytes_of_bad_size _ hsize]
    exact .fails hsize
  · exact .passes hsize (reports_unpad_of_good_size d (by omega) (by omega))

/-- The last check of CBC_DEC: decrypted data of whole blocks is refused for its pad alone (R213). -/
theorem reports_unpad_wholeBlocks {d : List Byte} (hpos : 0 < d.length) (hwhole : d.length % 16 = 0) :
    Reports [(.invalidPadding, ¬ GoodPad d 16)] (codeOf (outcomeOfUnpad (unpadBytes d 16))) := by
  have hunpad := reports_unpad_of_good_size d (b := 16) (by omega) (by omega)
  simpa only [hpos.ne', hwhole, ne_eq, not_true_eq_false, false_or] using hunpad

/-- CBC_ENC's semantic function with the length of the padded data written out (R212). -/
theorem outcomeOf_cbcEnc (b : Nat) (s : State) :
    outcomeOf (.cbcEnc b) (snapshot s) =
      if s.keyv = false then .fail .keyNotReady
      else if s.bufBytes < lengthIn s then .fail .lengthRange
      else if s.bufBytes < 16 * (lengthIn s / 16 + 1) then .fail .outputOverflow
      else okOut (cbcEncryptBlocks (rkIn s) s.iv (withPad (dataIn s) 16)) := by
  have hpad : padBytes (inputData (snapshot s)) 16 = .ok (withPad (dataIn s) 16) :=
    padBytes_of_good_size (dataIn s) (by omega) (by omega)
  have hlen : (withPad (dataIn s) 16).length = 16 * (lengthIn s / 16 + 1) := by
    rw [length_withPad, length_dataIn, add_sub_mod_eq_mul _ (by omega)]
  rw [outcomeOf, outcomeCbcEnc, hpad, ← hlen]
  rfl

/-- Every semantic function makes the checks of its command in order, and then succeeds. -/
theorem reports_outcomeOf (i : Instr) (s : State) : Reports (errorChecks s i) (codeOf (outcomeOf i (snapshot s))) := by
  cases i with
  | nop | keyExpand | zeroize => exact .none
  | encBlock | decBlock => exact .test fun _ => .none
  | cbcEnc b =>
    rw [outcomeOf_cbcEnc]
    exact .test fun _ => .test fun _ => .test fun _ => .none
  | cbcDec b =>
    refine .test fun _ => .test fun _ => .test fun (hlen : ¬ (lengthIn s = 0 ∨ lengthIn s % 16 ≠ 0)) => ?_
    have hq : (cbcDecryptBlocks (rkIn s) s.iv (dataIn s)).length = 16 * (lengthIn s / 16) := by simp
    exact reports_unpad_wholeBlocks (by omega) (by omega)
  | cbcEncNoPad | cbcDecNoPad => exact .test fun _ => .test fun _ => .test fun _ => .none
  | pad b => exact .test fun _ => reports_outcomeOfPad s b
  | unpad b => exact .test fun _ => length_dataIn s ▸ reports_outcomeOfUnpad (dataIn s) b
  | reservedB | reservedC | reservedD | reservedE | reservedF => exact .fails trivial

/-! ### The obligations -/

/-- Settles O20: the code of a command's completion is that of its first failing check, and its checks are the
conditions of R300 by rising code. -/
theorem lowestErrorCodeIsReported : Obligations.LowestErrorCodeIsReported := by
  unfold Obligations.LowestErrorCodeIsReported
  intro i s hidle
  refine ⟨_, _, exec_eq_issue i s, completed_issue _ hidle, ?commands, fun w e he => ?words⟩
  case commands =>
    simp only [errorHolds_iff]
    refine ((reports_outcomeOf i s).lowest (errorChecks_ascending i s)).imp ?_ ?_
    · rintro ⟨hcode, hnone⟩
      exact ⟨hcode, fun c ⟨x, hx, _, hxp⟩ => hnone x hx hxp⟩
    · rintro ⟨hholds, hleast⟩
      exact ⟨hholds, fun c ⟨x, hx, hxc, hxp⟩ => hxc ▸ hleast x hx hxp⟩
  case words => exact ⟨_, runWord_of_decode_error he s, completed_issue (.fail .illegalCmd) hidle⟩

/-- A command issued on an idle core that completes with a code of its own changes nothing but the lifecycle (R304). -/
theorem issue_failure_frame {s : State} (o : CmdOutcome) (hidle : s.phase = .idle)
    (hfail : (complete (issue o s)).errcode ≠ .none) :
    SameButLifecycle s (complete (issue o s)) ∧ (complete (issue o s)).done = true ∧
      (complete (issue o s)).phase = .idle := by
  have hdone := completed_issue o hidle
  refine ⟨?_, hdone.done, hdone.idle⟩
  cases o with
  | fail c =>
    obtain ⟨-, -, hsame⟩ := issue_fail_of_idle c hidle
    exact hsame
  | ok r => exact absurd hdone.errcode hfail

/-- Settles O21: a command and a written word alike are issued with some outcome, and only a failure's completion has
a nonzero code. -/
theorem failureHasNoSideEffect : Obligations.FailureHasNoSideEffect := by
  unfold Obligations.FailureHasNoSideEffect
  refine fun s hidle => ⟨fun i => ⟨_, exec_eq_issue i s, issue_failure_frame _ hidle⟩, fun w => ?_⟩
  obtain ⟨o, ho⟩ := runWord_eq_issue w s
  exact ⟨_, ho, issue_failure_frame o hidle⟩

end Sys2Proof.Machine
end

section
/-! PROOFS. The responses of the bus (R305): what a step answers to a read and to a write; and from these O43. -/

namespace Sys2Proof.Machine

/-- The offsets answered ERROR: misaligned, or in none of the ranges of the map (R63 to R65). -/
theorem badOffset_eq_true_iff (s : State) (off : Offset) :
    badOffset s off = true ↔ off.toNat % 4 ≠ 0 ∨ ¬ (off.toNat < 0x040 ∨
      (0x1000 ≤ off.toNat ∧ off.toNat < 0x1000 + s.bufBytes) ∨
      (0x2000 ≤ off.toNat ∧ off.toNat < 0x2000 + s.bufBytes)) := by
  rw [← not_iff_not, Bool.not_eq_true, badOffset_eq_false_iff, not_or, not_not, not_not]

/-- Out of reset, a read that comes first is what the step serves. -/
theorem step_before_read {s : State} (hr : s.inReset = false) (off : Offset) :
    step (before (.read off) s) = .next (memRead off s) := by
  rcases advance_cases (before (.read off) s) with ⟨h, _⟩ | ⟨h, _⟩ | ⟨_, h, _⟩ | ⟨_, e, r, h, k⟩
  · exact absurd (hr.symm.trans h) (by decide)
  · exact absurd (hr.symm.trans h) (by decide)
  · cases h
  · cases h
    exact k

theorem issue_answers (o : CmdOutcome) (s : State) : (issue o s).answers = s.answers := by
  unfold issue
  split <;> rfl

theorem writeInLen_answers (v : Word) (s : State) : (writeInLen v s).answers = s.answers := by
  unfold writeInLen
  split <;> rfl

theorem writeWindow_answers {store : Nat → Byte → State → State} (base : Nat) (strb : Strobe) (v : Word) (s : State)
    (hs : ∀ i b u, (store i b u).answers = u.answers) : (writeWindow store base strb v s).answers = s.answers :=
  writeWindow_keeps (fun t => t.answers = s.answers) rfl rfl fun _ b u _ h => (hs _ b u).trans h

/-- No write action of a location answers anything itself. -/
theorem writeLocation_answers (off : Nat) (strb : Strobe) (v : Word) (s : State) :
    ∃ t, writeLocation off strb v s = .next t ∧ t.answers = s.answers := by
  rcases writeLocation_cases off strb v s with
      ⟨_, hctrl⟩ | ⟨_, hcmd⟩ | ⟨_, hstatus⟩ | ⟨_, hinLen⟩ | ⟨_, hignored⟩ | ⟨_, _, hkey⟩ | ⟨_, _, hiv⟩ |
      ⟨_, _, hinBuf⟩ | ⟨_, houtBuf⟩
  · exact ⟨_, hctrl, rfl⟩
  · obtain ⟨o, ho⟩ := runWord_eq_issue v s
    exact ⟨_, hcmd.trans ho, issue_answers o s⟩
  · exact ⟨_, hstatus, rfl⟩
  · exact ⟨_, hinLen, writeInLen_answers v s⟩
  · exact ⟨_, hignored, rfl⟩
  · exact ⟨_, hkey, writeWindow_answers _ strb v s fun _ _ _ => rfl⟩
  · exact ⟨_, hiv, writeWindow_answers _ strb v s fun _ _ _ => rfl⟩
  · exact ⟨_, hinBuf, writeWindow_answers _ strb v s fun _ _ _ => rfl⟩
  · exact ⟨_, houtBuf, rfl⟩

/-- The response to a read is ERROR exactly at a bad offset, and then the data is 0 and nothing has changed (R65). -/
theorem memRead_response (off : Offset) (s : State) :
    ∃ d r, (memRead off s).answers = .read d r :: s.answers ∧ (r = .error ↔ badOffset s off = true) ∧
      (r = .error → d = 0 ∧ memRead off s = { s with answers := (memRead off s).answers }) := by
  rcases memRead_cases off s with ⟨hbad, herror⟩ | ⟨hok, -, -, hfree⟩ | ⟨hok, -, hmapped⟩
  · rw [herror]
    exact ⟨_, _, rfl, iff_of_true rfl hbad, fun _ => ⟨rfl, rfl⟩⟩
  · rw [hfree]
    exact ⟨_, _, rfl, by simp [hok], nofun⟩
  · rw [hmapped]
    exact ⟨_, _, rfl, by simp [hok], nofun⟩

/-- The response to a write is ERROR exactly at a bad offset or for a partial control write, and then nothing has
changed (R65, R66). -/
theorem memWrite_response (off : Offset) (strb : Strobe) (v : Word) (s : State) :
    ∃ t r, memWrite off strb v s = .next t ∧ t.answers = .written r :: s.answers ∧
      (r = .error ↔ badOffset s off = true ∨ partialControlWrite off strb = true) ∧
      (r = .error → t = { s with answers := t.answers }) := by
  rw [← Bool.or_eq_true]
  rcases memWrite_cases off strb v s with ⟨hbad, herror⟩ | ⟨hok, hokay⟩
  · exact ⟨_, _, herror, rfl, iff_of_true rfl hbad, fun _ => rfl⟩
  · obtain ⟨t, ht, hanswers⟩ := writeLocation_answers off.toNat strb v (answer (.written .okay) s)
    exact ⟨t, .okay, hokay.trans ht, hanswers, by simp [hok], nofun⟩

/-- Settles O43: a read or write that comes first is answered by the step, and R305's cases are the bad offsets and the
partial control writes. -/
theorem busErrorsAreExactlyThese : Obligations.BusErrorsAreExactlyThese := by
  unfold Obligations.BusErrorsAreExactlyThese
  intro s off hr bad
  have hbad : badOffset s off = true ↔ bad := badOffset_eq_true_iff s off
  refine ⟨?read, fun strb v => ?write⟩
  case read =>
    obtain ⟨d, r, hanswer, herror, hkept⟩ := memRead_response off s
    exact ⟨_, d, r, step_before_read hr off, hanswer, herror.trans hbad, hkept⟩
  case write =>
    obtain ⟨t, r, ht, hanswer, herror, hkept⟩ := memWrite_response off strb v s
    exact ⟨t, r, (step_before_write hr off strb v).trans ht, hanswer,
      herror.trans (or_congr hbad (partialControlWrite_eq_true_iff off strb)), hkept⟩

end Sys2Proof.Machine
end

section
/-! PROOFS. The interrupt (R308): irq out of reset, and IE and `rst_n` across a completion; and from these O41. -/

namespace Sys2Proof.Machine

theorem irq_of_released {s : State} (h : s.inReset = false) : irq s = (s.ie && s.done) := by
  simp [irq, h]

theorem irq_of_ie_clear {s : State} (h : s.ie = false) : irq s = false := by
  simp [irq, h]

theorem irq_of_done_clear {s : State} (h : s.done = false) : irq s = false := by
  simp [irq, h]

/-- No commit changes IE or `rst_n` (R264, R267). -/
theorem commit_ie_inReset (o : CmdOutcome) (s : State) :
    (commit o s).ie = s.ie ∧ (commit o s).inReset = s.inReset := by
  cases o with
  | fail c => exact ⟨rfl, rfl⟩
  | ok r =>
    obtain ⟨out, rk, zeroize⟩ := r
    cases out <;> cases rk <;> cases zeroize <;> exact ⟨rfl, rfl⟩

theorem complete_ie_inReset (s : State) : (complete s).ie = s.ie ∧ (complete s).inReset = s.inReset := by
  cases hp : s.phase with
  | idle =>
    rw [complete_of_idle s hp]
    exact ⟨rfl, rfl⟩
  | busy o =>
    rw [complete_of_busy s hp]
    exact commit_ie_inReset o s

/-- Settles O41: a completion sets DONE and keeps IE; the writes and the issue clear IE or DONE. -/
theorem irqIsEnableAndDone : Obligations.IrqIsEnableAndDone := by
  unfold Obligations.IrqIsEnableAndDone
  intro s hr
  refine ⟨irq_of_released hr, fun hie hbusy => ?completion, fun hdone => ?enable, irq_of_ie_clear rfl,
    irq_of_done_clear (Bool.and_false _), fun i hidle => ?issue⟩
  case completion =>
    obtain ⟨o, ho⟩ := (isBusy_eq_true_iff s).1 hbusy
    obtain ⟨hieKept, hrKept⟩ := complete_ie_inReset s
    exact irq_of_completed (completed_of_busy ho) (hieKept.trans hie) (hrKept.trans hr)
  case enable =>
    have hreleased : (writeCtrl 0x00000001#32 s).inReset = false := hr
    rw [irq_of_released hreleased, writeCtrl_done, hdone]
    rfl
  case issue => exact ⟨_, exec_eq_issue i s, irq_of_done_clear (issue_same_of_idle _ hidle).done⟩

end Sys2Proof.Machine
end

section
/-! PROOFS. The command word (R90 to R96, R99): a word is its four fields put together, and the opcode map and its
encoder undo each other; which commands look at their block size; the step of a CMD write; and from these O1 to O4. -/

namespace Sys2Proof.Machine

/-! ### A word and its fields (R90) -/

theorem opField_append (res1 : BitVec 8) (b : BitVec 16) (res0 op : BitVec 4) :
    opField (res1 ++ b ++ res0 ++ op) = op :=
  BitVec.extractLsb'_append_eq_right

theorem res0Field_append (res1 : BitVec 8) (b : BitVec 16) (res0 op : BitVec 4) :
    res0Field (res1 ++ b ++ res0 ++ op) = res0 := by
  rw [res0Field, BitVec.extractLsb'_append_eq_of_le (by decide)]
  exact BitVec.extractLsb'_append_eq_right

theorem bszField_append (res1 : BitVec 8) (b : BitVec 16) (res0 op : BitVec 4) :
    bszField (res1 ++ b ++ res0 ++ op) = b := by
  rw [bszField, BitVec.extractLsb'_append_eq_of_le (by decide), BitVec.extractLsb'_append_eq_of_le (by decide)]
  exact BitVec.extractLsb'_append_eq_right

theorem res1Field_append (res1 : BitVec 8) (b : BitVec 16) (res0 op : BitVec 4) :
    res1Field (res1 ++ b ++ res0 ++ op) = res1 := by
  rw [res1Field, BitVec.extractLsb'_append_eq_of_le (by decide), BitVec.extractLsb'_append_eq_of_le (by decide)]
  exact BitVec.extractLsb'_append_eq_left

/-- The fields are the whole of a word: no bit lies outside them. -/
theorem append_fields (w : Word) : res1Field w ++ bszField w ++ res0Field w ++ opField w = w := by
  rw [res1Field, bszField, res0Field, opField,
    BitVec.extractLsb'_append_extractLsb'_eq_extractLsb' (start₂ := 24) (start₁ := 8) rfl,
    BitVec.extractLsb'_append_extractLsb'_eq_extractLsb' (start₂ := 8) (start₁ := 4) rfl,
    BitVec.extractLsb'_append_extractLsb'_eq_extractLsb' (start₂ := 4) (start₁ := 0) rfl]
  exact BitVec.extractLsb'_eq_self

/-! ### The opcode map (R94) -/

theorem instrOf_opOf (i : Instr) : instrOf (opOf i) i.bsz = i := by
  cases i <;> rfl

theorem opOf_instrOf (op : BitVec 4) (b : Nat) : opOf (instrOf op b) = op := by
  obtain ⟨n, hn⟩ := op
  interval_cases n <;> rfl

theorem bsz_instrOf (op : BitVec 4) (b : Nat) : (instrOf op b).bsz = b := by
  unfold instrOf
  split <;> rfl

/-! ### The decoder and the encoder -/

theorem decode_encode {i : Instr} (h : i.WellFormed) : decode (encode i) = .ok i := by
  rw [decode_of_reserved_zero (w := encode i) (res0Field_append ..) (res1Field_append ..), encode, opField_append,
    bszField_append, BitVec.toNat_ofNat, Nat.mod_eq_of_lt (by omega), instrOf_opOf]

theorem decode_eq_ok_iff (w : Word) (i : Instr) :
    decode w = .ok i ↔ res0Field w = 0 ∧ res1Field w = 0 ∧ i = instrOf (opField w) (bszField w).toNat := by
  unfold decode
  split
  · simp_all
  · split <;> simp_all [eq_comm]

theorem bsz_of_decode {w : Word} {i : Instr} (h : decode w = .ok i) : i.bsz = (bszField w).toNat := by
  obtain ⟨-, -, rfl⟩ := (decode_eq_ok_iff w i).1 h
  exact bsz_instrOf _ _

theorem encode_of_decode {w : Word} {i : Instr} (h : decode w = .ok i) : encode i = w := by
  obtain ⟨h0, h1, hi⟩ := (decode_eq_ok_iff w i).1 h
  rw [encode, bsz_of_decode h, hi, opOf_instrOf, BitVec.ofNat_toNat, BitVec.setWidth_eq]
  conv_rhs => rw [← append_fields w, h0, h1]
  rfl

/-- Settles O1: a word is its fields, two of which are 0 in a command's word, and the opcode map undoes `opOf`. -/
theorem decodeAndEncodeAgree : Obligations.DecodeAndEncodeAgree := by
  unfold Obligations.DecodeAndEncodeAgree
  refine ⟨fun i => decode_encode, fun w i h => ⟨?_, encode_of_decode h⟩⟩
  have hlt := (bszField w).isLt
  rw [Instr.WellFormed, bsz_of_decode h]
  omega

/-- Settles O2: each word's fields are closed terms. -/
theorem writtenOutWordsDecode : Obligations.WrittenOutWordsDecode := by
  unfold Obligations.WrittenOutWordsDecode
  decide

/-! ### The block size (R92) -/

theorem toNat_bszField (w : Word) : (bszField w).toNat = w.toNat / 256 % 65536 := by
  rw [bszField, BitVec.extractLsb'_toNat, Nat.shiftRight_eq_div_pow]

theorem pad_bad_size {s : State} {b : Nat} (hidle : s.phase = .idle) (hlen : lengthIn s ≤ s.bufBytes)
    (hsize : b = 0 ∨ 255 < b) : CommandFails (.pad b) s .invalidBlockSize := by
  refine commandFails_of_outcome hidle ?_
  rw [outcomeOf_pad, if_neg (by omega), padBytes_of_bad_size _ hsize, outcomeOfPad]

theorem unpad_bad_size {s : State} {b : Nat} (hidle : s.phase = .idle) (hlen : lengthIn s ≤ s.bufBytes)
    (hsize : b = 0 ∨ 255 < b) : CommandFails (.unpad b) s .invalidBlockSize := by
  refine commandFails_of_outcome hidle ?_
  rw [outcomeOf_unpad, if_neg (by omega), unpadBytes_of_bad_size _ hsize, outcomeOfUnpad]

/-- Settles O3: the field's place in the word; Pad and Unpad refuse the size before they look at the data; no other
arm of the dispatch takes the size. -/
theorem blockSizeFieldAndItsUse : Obligations.BlockSizeFieldAndItsUse := by
  unfold Obligations.BlockSizeFieldAndItsUse
  refine ⟨fun w i h => (bsz_of_decode h).trans (toNat_bszField w), fun s b hidle hlen hsize => ?refused,
    fun s b c => ?ignored⟩
  case refused => exact ⟨pad_bad_size hidle hlen hsize, unpad_bad_size hidle hlen hsize⟩
  case ignored => exact ⟨rfl, rfl, rfl, rfl, rfl, rfl, rfl, rfl, rfl, rfl, rfl, rfl, rfl, rfl⟩

/-! ### The step of a CMD write -/

/-- Settles O4: the write is answered OKAY and runs its word, which decodes to the command. -/
theorem stepRunsTheWrittenCommand : Obligations.StepRunsTheWrittenCommand := by
  unfold Obligations.StepRunsTheWrittenCommand
  intro s w i hr _ hw
  rw [step_cmd_write hr, runWord, hw]
  rfl

end Sys2Proof.Machine
end

section
/-! PROOFS. The outcomes of the commands (R94, R145, R267, R300): of the semantic functions only KEY_EXPAND's gives a
schedule and only ZEROIZE's clears the core; the others fail with a code of their own, or give output that fits the
buffer; and from these O23. -/

namespace Sys2Proof.Machine

/-! ### An error, or output and nothing else -/

/-- The outcome is a failure with a code of its own, or output of at most `n` bytes and nothing else. -/
inductive ErrorOrOutput (n : Nat) : CmdOutcome → Prop
  | error {c : ErrCode} (h : c ≠ .none) : ErrorOrOutput n (.fail c)
  | output {l : List Byte} (h : l.length ≤ n) : ErrorOrOutput n (okOut l)

/-- A test of a semantic function fails with its code, or what comes after it decides. -/
theorem ErrorOrOutput.test {n : Nat} {c : ErrCode} {p : Prop} [Decidable p] {o : CmdOutcome}
    (h : ¬ p → ErrorOrOutput n o) (hc : c ≠ .none := by decide) : ErrorOrOutput n (if p then .fail c else o) := by
  split
  · exact .error hc
  · next hp => exact h hp

theorem errorOrOutput_outcomeOfPad (d : List Byte) (b : Nat) {cap n : Nat} (h : cap ≤ n) :
    ErrorOrOutput n (outcomeOfPad cap (padBytes d b)) := by
  by_cases hsize : b = 0 ∨ 255 < b
  · rw [padBytes_of_bad_size d hsize]
    exact .error (by decide)
  · rw [padBytes_of_good_size d (by omega) (by omega)]
    exact .test fun hfits => .output (by omega)

/-- What Unpad gives is no longer than what it takes (R241). -/
theorem errorOrOutput_outcomeOfUnpad {d : List Byte} {n : Nat} (b : Nat) (h : d.length ≤ n) :
    ErrorOrOutput n (outcomeOfUnpad (unpadBytes d b)) := by
  by_cases hsize : b = 0 ∨ 255 < b
  · rw [unpadBytes_of_bad_size d hsize]
    exact .error (by decide)
  · by_cases hgood : 0 < d.length ∧ d.length % b = 0 ∧ GoodPad d b
    · obtain ⟨hpos, hwhole, hpad⟩ := hgood
      rw [unpadBytes_of_goodPad (by omega) (by omega) hpos hwhole hpad]
      exact .output ((List.length_take_le' _ _).trans h)
    · rw [unpadBytes_of_not_goodPad (by omega) (by omega) hgood]
      exact .error (by decide)

theorem errorOrOutput_onWholeBlocks {s : State} {n : Nat} {o : CmdOutcome}
    (h : lengthIn s ≤ s.bufBytes → ErrorOrOutput n o) : ErrorOrOutput n (outcomeOnWholeBlocks s o) :=
  .test fun _ => .test fun hcap => .test fun _ => h (Nat.not_lt.1 hcap)

/-! ### The commands -/

/-- The commands whose result is output (R94). -/
def hasOutput : Instr → Bool
  | .encBlock _ | .decBlock _ | .cbcEnc _ | .cbcDec _ | .cbcEncNoPad _ | .cbcDecNoPad _ | .pad _ | .unpad _ => true
  | _ => false

theorem eq_of_hasOutput {i : Instr} (h : hasOutput i = true) :
    i = .encBlock i.bsz ∨ i = .decBlock i.bsz ∨ i = .cbcEnc i.bsz ∨ i = .cbcDec i.bsz ∨ i = .cbcEncNoPad i.bsz ∨
      i = .cbcDecNoPad i.bsz ∨ i = .pad i.bsz ∨ i = .unpad i.bsz := by
  cases i <;> simp [hasOutput, Instr.bsz] at h ⊢

/-- The output of a command fits the buffer, or is the one block of ENC_BLOCK or DEC_BLOCK (R72, R194, R195). -/
theorem errorOrOutput_outcomeOf {i : Instr} (h : hasOutput i = true) (s : State) :
    ErrorOrOutput (max 16 s.bufBytes) (outcomeOf i (snapshot s)) := by
  have hcap : s.bufBytes ≤ max 16 s.bufBytes := Nat.le_max_right ..
  have hdata : lengthIn s ≤ s.bufBytes → (dataIn s).length ≤ max 16 s.bufBytes := by
    rw [length_dataIn]
    omega
  have henc : lengthIn s ≤ s.bufBytes →
      (cbcEncryptBlocks (rkIn s) s.iv (dataIn s)).length ≤ max 16 s.bufBytes := by
    rw [length_cbcEncryptBlocks, length_dataIn]
    omega
  have hdec : lengthIn s ≤ s.bufBytes →
      (cbcDecryptBlocks (rkIn s) s.iv (dataIn s)).length ≤ max 16 s.bufBytes := by
    rw [length_cbcDecryptBlocks, length_dataIn]
    omega
  cases i with
  | encBlock | decBlock => exact .test fun _ => .output (Nat.le_max_left ..)
  | cbcEnc b =>
    rw [outcomeOf_cbcEnc]
    refine .test fun _ => .test fun _ => .test fun hfits => .output ?_
    rw [length_cbcEncryptBlocks, length_withPad, length_dataIn, add_sub_mod_eq_mul _ (by omega)]
    omega
  | cbcDec b => exact errorOrOutput_onWholeBlocks fun hlen => errorOrOutput_outcomeOfUnpad 16 (hdec hlen)
  | cbcEncNoPad b => exact errorOrOutput_onWholeBlocks fun hlen => .output (henc hlen)
  | cbcDecNoPad b => exact errorOrOutput_onWholeBlocks fun hlen => .output (hdec hlen)
  | pad b => exact .test fun _ => errorOrOutput_outcomeOfPad (dataIn s) b hcap
  | unpad b => exact .test fun hlen => errorOrOutput_outcomeOfUnpad b (hdata (Nat.not_lt.1 hlen))
  | _ => cases h

/-- Everything the outcome of a command can be (R94, R265). -/
theorem outcomeOf_cases (i : Instr) (s : State) :
    outcomeOf i (snapshot s) = outcomeNop ∨
    (i = .keyExpand i.bsz ∧ outcomeOf i (snapshot s) = outcomeKeyExpand (snapshot s)) ∨
    (i = .zeroize i.bsz ∧ outcomeOf i (snapshot s) = outcomeZeroize) ∨
    outcomeOf i (snapshot s) = outcomeIllegal ∨
    (hasOutput i = true ∧ ErrorOrOutput (max 16 s.bufBytes) (outcomeOf i (snapshot s))) := by
  cases ho : hasOutput i with
  | true => exact .inr (.inr (.inr (.inr ⟨rfl, errorOrOutput_outcomeOf ho s⟩)))
  | false =>
    cases i with
    | nop => exact .inl rfl
    | keyExpand => exact .inr (.inl ⟨rfl, rfl⟩)
    | zeroize => exact .inr (.inr (.inl ⟨rfl, rfl⟩))
    | reservedB | reservedC | reservedD | reservedE | reservedF => exact .inr (.inr (.inr (.inl rfl)))
    | _ => cases ho

/-- Settles O23: the result in flight is that of the command's semantic function, which has one of five kinds. -/
theorem resultsBelongToTheirCommands : Obligations.ResultsBelongToTheirCommands := by
  unfold Obligations.ResultsBelongToTheirCommands
  intro i s t r hidle ht hbusy
  cases (exec_eq_issue i s).symm.trans ht
  have hr : outcomeOf i (snapshot s) = .ok r := by
    rwa [phase_issue_of_idle _ hidle, Phase.busy.injEq] at hbusy
  rcases outcomeOf_cases i s with h | ⟨hi, h⟩ | ⟨hi, h⟩ | h | ⟨hi, h⟩
  · cases h.symm.trans hr
    exact ⟨nofun, nofun, nofun⟩
  · cases h.symm.trans hr
    exact ⟨fun _ => hi, nofun, nofun⟩
  · cases h.symm.trans hr
    exact ⟨nofun, fun _ => hi, nofun⟩
  · cases h.symm.trans hr
  · rw [hr] at h
    cases h
    exact ⟨nofun, nofun, fun _ => eq_of_hasOutput hi⟩

end Sys2Proof.Machine
end

section
/-! PROOFS. What every step keeps: the updates a step is made of, as one list of closure conditions on a property of
states; that the invariants of the RAMs, of the control registers and of the schedule meet them; and from these O57 to
O60. -/

namespace Sys2Proof.Machine

/-! ### Closure under the updates of a step -/

/-- The semantic function of the command a written word stands for (R96, R265, R268). -/
def outcomeOfWord (w : Word) (p : Snapshot) : CmdOutcome :=
  match decode w with
  | .ok i => outcomeOf i p
  | .error _ => outcomeIllegal

theorem runWord_eq_issue_outcomeOfWord (w : Word) (s : State) :
    runWord w s = .next (issue (outcomeOfWord w (snapshot s)) s) := by
  unfold runWord outcomeOfWord
  cases decode w with
  | ok i => exact exec_eq_issue i s
  | error e => rfl

/-- The updates that the steps of the core are made of all keep `P`. -/
structure KeptByUpdates (P : State → Prop) : Prop where
  reset : ∀ s, P s → P (resetState s)
  complete : ∀ s, P s → P (complete s)
  issue : ∀ w s, P s → P (issue (outcomeOfWord w (snapshot s)) s)
  clearDone : ∀ s, P s → P { s with done := false }
  /-- IE, WIB, `rst_n` and the model's own fields. -/
  free : ∀ s ie wib inReset draws events answers, s.draws ≤ draws → P s →
    P { s with ie := ie, wib := wib, inReset := inReset, draws := draws, events := events, answers := answers }
  inLen : ∀ v s, P s → P { s with inLen := v }
  storeKey : ∀ i b s, P s → P (storeKey i b s)
  storeIv : ∀ i b s, P s → P (storeIv i b s)
  /-- A lane of an aligned word of IN_BUF. -/
  storeInBuf : ∀ base i b s, base % 4 = 0 → base < s.bufBytes → i < 4 → P s → P (storeInBuf (base + i) b s)

section
variable {P : State → Prop} (h : KeptByUpdates P) {s t : State}
include h

theorem KeptByUpdates.answer (hs : P s) (a : Answer) : P (answer a s) :=
  h.free s s.ie s.wib s.inReset s.draws s.events (a :: s.answers) (Nat.le_refl _) hs

theorem KeptByUpdates.setWib (hs : P s) : P { s with wib := true } :=
  h.free s s.ie true s.inReset s.draws s.events s.answers (Nat.le_refl _) hs

theorem KeptByUpdates.writeStatus (hs : P s) (v : Word) : P (writeStatus v s) := by
  have hwib : ∀ u, P u → P { u with wib := s.wib && !v.getLsbD 4 } := fun u hu =>
    h.free u u.ie _ u.inReset u.draws u.events u.answers (Nat.le_refl _) hu
  unfold Machine.writeStatus
  cases v.getLsbD 1
  · simpa using hwib s hs
  · simpa using hwib _ (h.clearDone s hs)

theorem KeptByUpdates.writeInLen (hs : P s) (v : Word) : P (writeInLen v s) := by
  unfold Machine.writeInLen
  split
  · exact h.setWib hs
  · exact h.inLen v s hs

theorem KeptByUpdates.writeInBuf (hs : P s) {base : Nat} (halign : base % 4 = 0) (hbase : base < s.bufBytes)
    (strb : Strobe) (v : Word) : P (writeWindow Machine.storeInBuf base strb v s) := by
  refine (writeWindow_keeps (fun u => P u ∧ u.bufBytes = s.bufBytes) ⟨hs, rfl⟩ ⟨h.setWib hs, rfl⟩
    fun i b u hi ⟨hu, hcap⟩ => ⟨h.storeInBuf base i b u halign (hcap ▸ hbase) hi hu, hcap⟩).1

theorem KeptByUpdates.memRead (hs : P s) (off : Offset) : P (memRead off s) := by
  obtain ⟨a, n, hread⟩ := memRead_frame off s
  rw [hread]
  exact h.free s s.ie s.wib s.inReset _ s.events _ (Nat.le_add_right ..) hs

/-- The write action of a location that the bus does not answer with ERROR (R66 to R68). -/
theorem KeptByUpdates.writeLocation (hs : P s) {off : Offset} (hok : badOffset s off = false) {strb : Strobe} {v : Word}
    (ht : writeLocation off.toNat strb v s = .next t) : P t := by
  obtain ⟨halign, hmapped⟩ := (badOffset_eq_false_iff s off).1 hok
  rcases writeLocation_cases off.toNat strb v s with
      ⟨_, hctrl⟩ | ⟨_, hcmd⟩ | ⟨_, hstatus⟩ | ⟨_, hinLen⟩ | ⟨_, hignored⟩ | ⟨_, _, hkey⟩ | ⟨_, _, hiv⟩ |
      ⟨hlo, hhi, hinBuf⟩ | ⟨_, houtBuf⟩
  · cases hctrl.symm.trans ht
    exact h.free s (v.getLsbD 0) s.wib s.inReset s.draws s.events s.answers (Nat.le_refl _) hs
  · cases (hcmd.trans (runWord_eq_issue_outcomeOfWord v s)).symm.trans ht
    exact h.issue v s hs
  · cases hstatus.symm.trans ht
    exact h.writeStatus hs v
  · cases hinLen.symm.trans ht
    exact h.writeInLen hs v
  · cases hignored.symm.trans ht
    exact hs
  · cases hkey.symm.trans ht
    exact writeWindow_keeps P hs (h.setWib hs) fun _ b u _ hu => h.storeKey _ b u hu
  · cases hiv.symm.trans ht
    exact writeWindow_keeps P hs (h.setWib hs) fun _ b u _ hu => h.storeIv _ b u hu
  · cases hinBuf.symm.trans ht
    exact h.writeInBuf hs (by omega) (by omega) strb v
  · cases houtBuf.symm.trans ht
    exact hs

theorem KeptByUpdates.memWrite (hs : P s) {off : Offset} {strb : Strobe} {v : Word}
    (ht : memWrite off strb v s = .next t) : P t := by
  rcases memWrite_cases off strb v s with ⟨_, herror⟩ | ⟨hok, hokay⟩
  · cases herror.symm.trans ht
    exact h.answer hs _
  · have hoff : badOffset (Machine.answer (.written .okay) s) off = false := (Bool.or_eq_false_iff.1 hok).1
    exact h.writeLocation (h.answer hs _) hoff (hokay.symm.trans ht)

theorem KeptByUpdates.serve (hs : P s) {e : Event} (ht : serve e s = .next t) : P t := by
  cases e with
  | read off =>
    cases ht
    exact h.memRead hs off
  | write off strb v => exact h.memWrite hs ht
  | complete =>
    cases ht
    exact h.complete s hs
  | resetAssert =>
    cases ht
    exact h.free s s.ie s.wib true s.draws s.events s.answers (Nat.le_refl _) hs
  | resetRelease =>
    cases ht
    exact hs

/-- What the updates keep, every step keeps. -/
theorem KeptByUpdates.step (hs : P s) (ht : step s = .next t) : P t := by
  have hevents : ∀ r, P { s with events := r } := fun r =>
    h.free s s.ie s.wib s.inReset s.draws r s.answers (Nat.le_refl _) hs
  rcases advance_cases s with ⟨_, _, hheld⟩ | ⟨_, r, _, hrelease⟩ | ⟨_, _, hdue⟩ | ⟨_, e, r, _, hserve⟩
  · cases hheld.symm.trans ht
    exact hs
  · cases hrelease.symm.trans ht
    exact h.reset _ (hevents r)
  · cases hdue.symm.trans ht
    exact h.complete s hs
  · exact h.serve (hevents r) (hserve.symm.trans ht)

end

/-! ### What an issue and a completion do to the parts the invariants speak of -/

/-- An issue holds a new outcome on an idle core; on a busy one it keeps the old. -/
theorem issue_pend {s : State} {o p : CmdOutcome} (h : (issue o s).phase = .busy p) : p = o ∨ s.phase = .busy p := by
  cases hp : s.phase with
  | idle =>
    rw [phase_issue_of_idle o hp, Phase.busy.injEq] at h
    exact .inl h.symm
  | busy q =>
    rw [issue_of_busy s o hp] at h
    exact .inr (hp.symm.trans h)

/-- Everything the outcome of a written word can be (R94, R265, R268). -/
theorem outcomeOfWord_cases (w : Word) (s : State) :
    outcomeOfWord w (snapshot s) = outcomeNop ∨
    outcomeOfWord w (snapshot s) = outcomeKeyExpand (snapshot s) ∨
    outcomeOfWord w (snapshot s) = outcomeZeroize ∨
    ErrorOrOutput (max 16 s.bufBytes) (outcomeOfWord w (snapshot s)) := by
  have hillegal : ErrorOrOutput (max 16 s.bufBytes) outcomeIllegal := .error (by decide)
  unfold outcomeOfWord
  cases decode w with
  | error e => exact .inr (.inr (.inr hillegal))
  | ok i =>
    rcases outcomeOf_cases i s with h | ⟨-, h⟩ | ⟨-, h⟩ | h | ⟨-, h⟩
    · exact .inl h
    · exact .inr (.inl h)
    · exact .inr (.inr (.inl h))
    · exact .inr (.inr (.inr (h ▸ hillegal)))
    · exact .inr (.inr (.inr h))

/-- A property that the commits of a success's own fields keep is kept by its commit (R264). -/
theorem commitOk_keeps (P : State → Prop) {r : CmdResult} {s : State} (h : P { s with errcode := .none })
    (hout : ∀ l u, r.out = some l → P u → P (commitOut l u)) (hrk : ∀ l u, r.rk = some l → P u → P (commitRk l u))
    (hz : ∀ u, r.zeroize = true → P u → P (zeroizeState u)) : P (commitOk r s) := by
  obtain ⟨out, rk, zeroize⟩ := r
  cases out with
  | none =>
    cases rk <;> cases zeroize
    · exact h
    · exact hz _ rfl h
    · exact hrk _ _ rfl h
    · exact hz _ rfl (hrk _ _ rfl h)
  | some l =>
    have hl := hout l _ rfl h
    cases rk <;> cases zeroize
    · exact hl
    · exact hz _ rfl hl
    · exact hrk _ _ rfl hl
    · exact hz _ rfl (hrk _ _ rfl hl)

/-- After a completion no command is in flight (R263). -/
theorem complete_idle (s : State) : (complete s).phase = .idle := by
  cases hp : s.phase with
  | idle => rwa [complete_of_idle s hp]
  | busy o => exact (completed_of_busy hp).idle

/-! ### The RAMs and the lengths -/

/-- What `MemoryInv` says of the RAMs and of OUT_LEN, without the outcome in flight. -/
structure StoresInv (s : State) : Prop where
  legal : Config.legalBufBytes s.bufBytes
  inBufWf : s.inBuf.wf
  outBufWf : s.outBuf.wf
  rkWf : s.rk.wf
  inBufBound : ∀ c ∈ s.inBuf.cells, c.1 < s.bufBytes
  outBufBound : ∀ c ∈ s.outBuf.cells, c.1 < s.bufBytes
  rkBound : ∀ c ∈ s.rk.cells, c.1 < 176
  outLen : s.outLen.toNat ≤ s.bufBytes

theorem memoryInv_iff (s : State) :
    MemoryInv s ↔ StoresInv s ∧ ∀ o, s.phase = .busy o → OutcomeFits s.bufBytes o :=
  ⟨fun h => ⟨{ h with }, h.pend⟩, fun ⟨h, hpend⟩ => { h with pend := hpend }⟩

theorem storesInv_resetState {s : State} (h : StoresInv s) : StoresInv (resetState s) :=
  ⟨h.legal, Memory.wf_empty _, Memory.wf_empty _, Memory.wf_empty _, nofun, nofun, nofun, Nat.zero_le _⟩

theorem storesInv_zeroizeState {s : State} (h : StoresInv s) : StoresInv (zeroizeState s) :=
  ⟨h.legal, Memory.wf_empty _, Memory.wf_empty _, Memory.wf_empty _, nofun, nofun, nofun, Nat.zero_le _⟩

theorem storesInv_commitOut {s : State} {l : List Byte} (h : StoresInv s) (hl : l.length ≤ s.bufBytes) :
    StoresInv (commitOut l s) where
  legal := h.legal
  inBufWf := h.inBufWf
  outBufWf := Memory.wf_ofBytes _ l
  rkWf := h.rkWf
  inBufBound := h.inBufBound
  outBufBound c hc := (Memory.bound_ofBytes _ l c hc).trans_le hl
  rkBound := h.rkBound
  outLen := by
    rw [commitOut_outLen, BitVec.toNat_ofNat]
    exact (Nat.mod_le _ _).trans hl

theorem storesInv_commitRk {s : State} {l : List Byte} (h : StoresInv s) (hl : l.length = 176) :
    StoresInv (commitRk l s) where
  legal := h.legal
  inBufWf := h.inBufWf
  outBufWf := h.outBufWf
  rkWf := Memory.wf_ofBytes _ l
  inBufBound := h.inBufBound
  outBufBound := h.outBufBound
  rkBound c hc := hl ▸ Memory.bound_ofBytes _ l c hc
  outLen := h.outLen

theorem storesInv_commit {s : State} {o : CmdOutcome} (h : StoresInv s) (ho : OutcomeFits s.bufBytes o) :
    StoresInv (commit o s) := by
  cases o with
  | fail c => exact { h with }
  | ok r =>
    obtain ⟨hout, hrk⟩ := ho
    refine (commitOk_keeps (fun u => StoresInv u ∧ u.bufBytes = s.bufBytes)
      ⟨{ h with }, rfl⟩ ?_ ?_ ?_).1
    · exact fun l u hl ⟨hu, hcap⟩ => ⟨storesInv_commitOut hu (hcap ▸ hout l hl), hcap⟩
    · exact fun l u hl ⟨hu, hcap⟩ => ⟨storesInv_commitRk hu (hrk l hl), hcap⟩
    · exact fun u _ ⟨hu, hcap⟩ => ⟨storesInv_zeroizeState hu, hcap⟩

theorem storesInv_complete {s : State} (h : MemoryInv s) : StoresInv (complete s) := by
  obtain ⟨hstores, hpend⟩ := (memoryInv_iff s).1 h
  cases hp : s.phase with
  | idle => rwa [complete_of_idle s hp]
  | busy o =>
    have hcommit := storesInv_commit hstores (hpend o hp)
    rw [complete_of_busy s hp]
    exact { hcommit with }

theorem outcomeFits_of_errorOrOutput {n : Nat} {o : CmdOutcome} (h : ErrorOrOutput n o) : OutcomeFits n o := by
  cases h with
  | error => trivial
  | output hl =>
    refine ⟨?_, nofun⟩
    rintro l ⟨⟩
    exact hl

theorem outcomeFits_outcomeOfWord {s : State} (h : Config.legalBufBytes s.bufBytes) (w : Word) :
    OutcomeFits s.bufBytes (outcomeOfWord w (snapshot s)) := by
  rcases outcomeOfWord_cases w s with ho | ho | ho | ho
  · rw [ho]
    exact ⟨nofun, nofun⟩
  · rw [ho]
    refine ⟨nofun, ?_⟩
    rintro l ⟨⟩
    exact length_keyExpansion s.key
  · rw [ho]
    exact ⟨nofun, nofun⟩
  · rw [max_eq_right h.1] at ho
    exact outcomeFits_of_errorOrOutput ho

theorem storesInv_issue {s : State} (h : StoresInv s) (o : CmdOutcome) : StoresInv (issue o s) := by
  unfold issue
  split <;> exact { h with }

theorem issue_bufBytes (o : CmdOutcome) (s : State) : (issue o s).bufBytes = s.bufBytes := by
  unfold issue
  split <;> rfl

theorem memoryInv_issue {s : State} (h : MemoryInv s) {o : CmdOutcome} (ho : OutcomeFits s.bufBytes o) :
    MemoryInv (issue o s) := by
  obtain ⟨hstores, hpend⟩ := (memoryInv_iff s).1 h
  refine (memoryInv_iff _).2 ⟨storesInv_issue hstores o, fun p hp => ?_⟩
  rw [issue_bufBytes]
  rcases issue_pend hp with rfl | hbusy
  · exact ho
  · exact hpend p hbusy

/-- The lanes of an aligned word of IN_BUF lie within BUF_BYTES, a multiple of 16 (R9). -/
theorem lane_lt_of_aligned {n base i : Nat} (hlegal : Config.legalBufBytes n) (halign : base % 4 = 0)
    (hbase : base < n) (hi : i < 4) : base + i < n := by
  omega

theorem memoryInv_keptByUpdates : KeptByUpdates MemoryInv where
  reset s h := (memoryInv_iff _).2 ⟨storesInv_resetState ((memoryInv_iff s).1 h).1, nofun⟩
  complete _ h := (memoryInv_iff _).2 ⟨storesInv_complete h, by simp [complete_idle]⟩
  issue w _ h := memoryInv_issue h (outcomeFits_outcomeOfWord h.legal w)
  clearDone _ h := { h with }
  free _ _ _ _ _ _ _ _ h := { h with }
  inLen _ _ h := { h with }
  storeKey _ _ _ h := { h with }
  storeIv _ _ _ h := { h with }
  storeInBuf _ _ b _ halign hbase hi h :=
    { h with
      inBufWf := Memory.wf_write h.inBufWf _ b
      inBufBound := Memory.bound_write b h.inBufBound (lane_lt_of_aligned h.legal halign hbase hi) }

/-- Settles O58: each update of a step keeps the RAMs canonical and bounded, and an issue brings an outcome that
fits. -/
theorem stepKeepsTheMemoryInvariant : Obligations.StepKeepsTheMemoryInvariant := by
  unfold Obligations.StepKeepsTheMemoryInvariant
  exact fun s t h ht => memoryInv_keptByUpdates.step h ht

/-! ### The control registers -/

theorem controlInv_of_idle {s : State} (h : s.phase = .idle) : ControlInv s := by
  have hidle := isBusy_of_idle s h
  exact ⟨by simp [hidle], by simp [hidle], by simp [h]⟩

theorem outcomeOfWord_ne_fail_none (w : Word) (s : State) : outcomeOfWord w (snapshot s) ≠ .fail .none := by
  intro hfail
  rcases outcomeOfWord_cases w s with ho | ho | ho | ho
  · cases ho.symm.trans hfail
  · cases ho.symm.trans hfail
  · cases ho.symm.trans hfail
  · rw [hfail] at ho
    cases ho with
    | error hc => exact hc rfl

theorem controlInv_issue {s : State} (h : ControlInv s) {o : CmdOutcome} (ho : o ≠ .fail .none) :
    ControlInv (issue o s) := by
  cases hp : s.phase with
  | idle =>
    rw [issue_of_idle s o hp]
    refine ⟨fun _ => rfl, fun _ => rfl, ?_⟩
    rintro c ⟨⟩ rfl
    exact ho rfl
  | busy p =>
    rw [issue_of_busy s o hp]
    exact { h with }

theorem controlInv_keptByUpdates : KeptByUpdates ControlInv where
  reset _ _ := controlInv_of_idle rfl
  complete s _ := controlInv_of_idle (complete_idle s)
  issue w s h := controlInv_issue h (outcomeOfWord_ne_fail_none w s)
  clearDone _ h := ⟨fun _ => rfl, h.errcode, h.pend⟩
  free _ _ _ _ _ _ _ _ h := { h with }
  inLen _ _ h := { h with }
  storeKey _ _ _ h := { h with }
  storeIv _ _ _ h := { h with }
  storeInBuf _ _ _ _ _ _ _ h := { h with }

/-- Settles O59: an issue clears DONE and CODE, a busy core's updates set neither, and no semantic function fails with
code 0. -/
theorem stepKeepsTheControlInvariant : Obligations.StepKeepsTheControlInvariant := by
  unfold Obligations.StepKeepsTheControlInvariant
  exact fun s t h ht => controlInv_keptByUpdates.step h ht

/-! ### The schedule -/

/-- KEYV is 1 only when RK holds the schedule of some key (R36). -/
def ScheduleLoaded (s : State) : Prop :=
  s.keyv = true → ∃ k, rkIn s = keyExpansion k

/-- A schedule among the results is that of some key. -/
def BringsSchedule (o : CmdOutcome) : Prop :=
  ∀ r l, o = .ok r → r.rk = some l → ∃ k, l = keyExpansion k

theorem bringsSchedule_of_errorOrOutput {n : Nat} {o : CmdOutcome} (h : ErrorOrOutput n o) : BringsSchedule o := by
  cases h with
  | error => nofun
  | output =>
    rintro r l ⟨⟩ ⟨⟩

theorem bringsSchedule_outcomeOfWord (w : Word) (s : State) : BringsSchedule (outcomeOfWord w (snapshot s)) := by
  rcases outcomeOfWord_cases w s with ho | ho | ho | ho
  · rw [ho]
    rintro r l ⟨⟩ ⟨⟩
  · rw [ho]
    rintro r l ⟨⟩ ⟨⟩
    exact ⟨s.key, rfl⟩
  · rw [ho]
    rintro r l ⟨⟩ ⟨⟩
  · exact bringsSchedule_of_errorOrOutput ho

theorem scheduleLoaded_commit {s : State} {o : CmdOutcome} (h : ScheduleLoaded s) (ho : BringsSchedule o) :
    ScheduleLoaded (commit o s) := by
  cases o with
  | fail c => exact h
  | ok r =>
    refine commitOk_keeps ScheduleLoaded h (fun l u _ hu => hu) (fun l u hl _ _ => ?_) fun u _ _ => nofun
    obtain ⟨k, rfl⟩ := ho r l rfl hl
    exact ⟨k, rkIn_of_keyExpansion rfl⟩

theorem scheduleInv_complete {s : State} (h : ScheduleInv s) : ScheduleInv (complete s) := by
  refine ⟨?_, by simp [complete_idle]⟩
  cases hp : s.phase with
  | idle =>
    rw [complete_of_idle s hp]
    exact h.loaded
  | busy o =>
    have ho : BringsSchedule o := fun r l hr => h.pend r l (hr ▸ hp)
    rw [complete_of_busy s hp]
    exact scheduleLoaded_commit h.loaded ho

theorem scheduleInv_issue {s : State} (h : ScheduleInv s) {o : CmdOutcome} (ho : BringsSchedule o) :
    ScheduleInv (issue o s) := by
  have hsame := sameResults_issue o s
  refine ⟨?_, fun r l hbusy hl => ?_⟩
  · rw [hsame.keyv, rkIn, hsame.rk]
    exact h.loaded
  · rcases issue_pend hbusy with hr | hold
    · exact ho r l hr.symm hl
    · exact h.pend r l hold hl

theorem scheduleInv_keptByUpdates : KeptByUpdates ScheduleInv where
  reset _ _ := ⟨nofun, nofun⟩
  complete _ h := scheduleInv_complete h
  issue w s h := scheduleInv_issue h (bringsSchedule_outcomeOfWord w s)
  clearDone _ h := { h with }
  free _ _ _ _ _ _ _ _ h := { h with }
  inLen _ _ h := { h with }
  storeKey _ _ _ h := { h with }
  storeIv _ _ _ h := { h with }
  storeInBuf _ _ _ _ _ _ _ h := { h with }

/-- Settles O60: a commit of a schedule loads the one in flight, which KEY_EXPAND made from some key; ZEROIZE and reset
clear KEYV with RK. -/
theorem stepKeepsTheScheduleInvariant : Obligations.StepKeepsTheScheduleInvariant := by
  unfold Obligations.StepKeepsTheScheduleInvariant
  exact fun s t h ht => scheduleInv_keptByUpdates.step h ht

/-! ### The state after reset -/

/-- Settles O57: after reset the RAMs have no cells, OUT_LEN and KEYV are 0, and no command is in flight. -/
theorem resetMeetsTheInvariants : Obligations.ResetMeetsTheInvariants := by
  unfold Obligations.ResetMeetsTheInvariants
  refine ⟨(memoryInv_iff _).2 ⟨⟨by decide, Memory.wf_empty _, Memory.wf_empty _, Memory.wf_empty _, nofun, nofun, nofun,
    Nat.zero_le _⟩, nofun⟩, controlInv_of_idle rfl, ⟨nofun, nofun⟩⟩

end Sys2Proof.Machine
end

section
/-! PROOFS. What a step may change (R261, R270, R306): the transactions a busy core serves move only flags and the
model's own records; a completion changes inputs only by the clearing of ZEROIZE, and outputs only by that and by an
output; and from these O5, O7, O50, O52 and O53. -/

namespace Sys2Proof.Machine

/-! ### Every step answers a next state (R306) -/

/-- Settles O5: in reset a step waits or releases; out of reset it completes or serves an event, which has a next
state. -/
theorem everyStepAnswersANextState : Obligations.EveryStepAnswersANextState := by
  unfold Obligations.EveryStepAnswersANextState
  intro s
  rcases advance_cases s with ⟨_, _, hheld⟩ | ⟨_, r, _, hrelease⟩ | ⟨_, _, hdue⟩ | ⟨_, e, r, _, hserve⟩
  · exact ⟨_, hheld⟩
  · exact ⟨_, hrelease⟩
  · exact ⟨_, hdue⟩
  · obtain ⟨t, ht, -⟩ := serve_results_cases e { s with events := r }
    exact ⟨t, hserve.trans ht⟩

/-! ### Transactions on a busy core -/

/-- `t` differs from `s` at most in IE, DONE, WIB and in the model's own counts and records. -/
def OnlyFlags (s t : State) : Prop :=
  ∃ ie done wib draws answers,
    t = { s with ie := ie, done := done, wib := wib, draws := draws, answers := answers }

theorem OnlyFlags.refl (s : State) : OnlyFlags s s :=
  ⟨_, _, _, _, _, rfl⟩

theorem OnlyFlags.frame {s t : State} (h : OnlyFlags s t) :
    t.inReset = s.inReset ∧ t.phase = s.phase ∧ t.events = s.events := by
  obtain ⟨_, _, _, _, _, rfl⟩ := h
  exact ⟨rfl, rfl, rfl⟩

/-- No write stores an input, or issues a command, on a busy core (R66, R67, R262). -/
theorem writeLocation_of_busy {s : State} {o : CmdOutcome} (h : s.phase = .busy o) (off : Nat) (strb : Strobe)
    (v : Word) : ∃ t, writeLocation off strb v s = .next t ∧ OnlyFlags s t := by
  have hbusy := isBusy_of_busy s h
  have hwindow : ∀ store base, OnlyFlags s (writeWindow store base strb v s) := fun store base =>
    writeWindow_of_busy store base strb v hbusy ▸ ⟨_, _, _, _, _, rfl⟩
  rcases writeLocation_cases off strb v s with
      ⟨_, hctrl⟩ | ⟨_, hcmd⟩ | ⟨_, hstatus⟩ | ⟨_, hinLen⟩ | ⟨_, hignored⟩ | ⟨_, _, hkey⟩ | ⟨_, _, hiv⟩ |
      ⟨_, _, hinBuf⟩ | ⟨_, houtBuf⟩
  · exact ⟨_, hctrl, _, _, _, _, _, rfl⟩
  · exact ⟨_, hcmd.trans (runWord_of_busy h v), _, _, _, _, _, rfl⟩
  · exact ⟨_, hstatus, _, _, _, _, _, rfl⟩
  · exact ⟨_, hinLen, writeInLen_of_busy v hbusy ▸ ⟨_, _, _, _, _, rfl⟩⟩
  · exact ⟨_, hignored, .refl s⟩
  · exact ⟨_, hkey, hwindow _ _⟩
  · exact ⟨_, hiv, hwindow _ _⟩
  · exact ⟨_, hinBuf, hwindow _ _⟩
  · exact ⟨_, houtBuf, .refl s⟩

theorem memWrite_of_busy {s : State} {o : CmdOutcome} (h : s.phase = .busy o) (off : Offset) (strb : Strobe)
    (v : Word) : ∃ t, memWrite off strb v s = .next t ∧ OnlyFlags s t := by
  rcases memWrite_cases off strb v s with ⟨_, herror⟩ | ⟨_, hokay⟩
  · exact ⟨_, herror, _, _, _, _, _, rfl⟩
  · obtain ⟨_, ht, ie, done, wib, draws, answers, rfl⟩ :=
      writeLocation_of_busy (s := answer (.written .okay) s) h off.toNat strb v
    exact ⟨_, hokay.trans ht, ie, done, wib, draws, answers, rfl⟩

theorem memRead_onlyFlags (off : Offset) (s : State) : OnlyFlags s (memRead off s) := by
  obtain ⟨a, n, h⟩ := memRead_frame off s
  exact ⟨_, _, _, _, _, h⟩

/-- An event that a busy core serves is the completion, or a reset, or moves only flags. -/
theorem serve_of_busy {s : State} {o : CmdOutcome} (h : s.phase = .busy o) (e : Event) :
    (e = .complete ∧ serve e s = .next (complete s)) ∨
    (e = .resetAssert ∧ serve e s = .next { s with inReset := true }) ∨
    ∃ t, serve e s = .next t ∧ OnlyFlags s t := by
  cases e with
  | read off => exact .inr (.inr ⟨_, rfl, memRead_onlyFlags off s⟩)
  | write off strb v => exact .inr (.inr (memWrite_of_busy h off strb v))
  | complete => exact .inl ⟨rfl, rfl⟩
  | resetAssert => exact .inr (.inl ⟨rfl, rfl⟩)
  | resetRelease => exact .inr (.inr ⟨_, rfl, .refl s⟩)

/-- Settles O50: the step completes the command, or moves only flags or `rst_n`. -/
theorem inputsAreFrozenWhileBusy : Obligations.InputsAreFrozenWhileBusy := by
  unfold Obligations.InputsAreFrozenWhileBusy
  intro s t o hr hbusy ht
  rcases advance_cases s with ⟨hr', _⟩ | ⟨hr', _⟩ | ⟨_, _, hdue⟩ | ⟨_, e, r, _, hserve⟩
  · cases hr.symm.trans hr'
  · cases hr.symm.trans hr'
  · cases hdue.symm.trans ht
    exact .inr ⟨s.events, rfl⟩
  · have hserved := hserve.symm.trans ht
    rcases serve_of_busy (s := { s with events := r }) hbusy e with ⟨_, he⟩ | ⟨_, he⟩ | ⟨_, he, _, _, _, _, _, rfl⟩
    · cases he.symm.trans hserved
      exact .inr ⟨r, rfl⟩
    · cases he.symm.trans hserved
      exact .inl ⟨hbusy, rfl, rfl, rfl, rfl, rfl, rfl, rfl, rfl⟩
    · cases he.symm.trans hserved
      exact .inl ⟨hbusy, rfl, rfl, rfl, rfl, rfl, rfl, rfl, rfl⟩

/-! ### The completion comes (R270) -/

theorem coreRun_succ (M : Host.Core) {s t : M.State} (h : M.step s = .next t) (k : Nat) :
    M.run (k + 1) s = M.run k t := by
  rw [Host.Core.run, h]

theorem run_succ {s t : State} (h : step s = .next t) (k : Nat) :
    Sys2Proof.core.run (k + 1) s = Sys2Proof.core.run k t :=
  coreRun_succ core h k

theorem step_of_no_event {s : State} (hr : s.inReset = false) (he : s.events = []) : step s = .next (complete s) := by
  simp [step, advance, hr, he]

theorem step_of_event {s : State} (hr : s.inReset = false) {e : Event} {r : List Event} (he : s.events = e :: r) :
    step s = serve e { s with events := r } := by
  simp [step, advance, hr, he]

/-- Settles O7, by induction on the coming events: each but a completion leaves the command in flight, and with none
left the next step completes it. -/
theorem commandInFlightCompletes : Obligations.CommandInFlightCompletes := by
  unfold Obligations.CommandInFlightCompletes
  intro s o hr hbusy hreset
  induction he : s.events generalizing s with
  | nil =>
    have hdone := completed_of_busy hbusy
    exact ⟨0, s, _, Nat.le_refl 0, rfl, hbusy, step_of_no_event hr he, hdone.idle, hdone.done⟩
  | cons e r ih =>
    have hstep := step_of_event hr he
    rw [he, List.mem_cons, not_or] at hreset
    obtain ⟨hfirst, hrest⟩ := hreset
    rcases serve_of_busy (s := { s with events := r }) hbusy e with ⟨_, hcomplete⟩ | ⟨rfl, _⟩ | ⟨v, hserve, hflags⟩
    · have hdone := completed_of_busy (s := { s with events := r }) hbusy
      exact ⟨0, s, _, Nat.zero_le _, rfl, hbusy, hstep.trans hcomplete, hdone.idle, hdone.done⟩
    · exact absurd rfl hfirst
    · obtain ⟨hrv, hphase, hevents⟩ := hflags.frame
      obtain ⟨k, t, u, hk, hrun, hlater⟩ := ih v (hrv.trans hr) (hphase.trans hbusy) (hevents ▸ hrest) hevents
      exact ⟨k + 1, t, u, Nat.succ_le_succ hk, (run_succ (hstep.trans hserve) k).trans hrun, hlater⟩

/-! ### The outputs (R32, R35) -/

/-- A completion that changes OUT_BUF or OUT_LEN is a success with output, or one that clears the core (R264, R267). -/
theorem complete_output_cases {s : State} {o : CmdOutcome} (h : s.phase = .busy o)
    (hne : (complete s).outBuf ≠ s.outBuf ∨ (complete s).outLen ≠ s.outLen) :
    ∃ r, o = .ok r ∧ (r.out ≠ none ∨ r.zeroize = true) := by
  cases o with
  | fail c =>
    obtain ⟨-, hsame⟩ := complete_fail h
    exact absurd hne (by simp [hsame.outBuf, hsame.outLen])
  | ok r =>
    refine ⟨r, rfl, ?_⟩
    by_contra hneither
    obtain ⟨hout, hz⟩ := not_or.1 hneither
    have hcommit : (commitOk r s).outBuf = s.outBuf ∧ (commitOk r s).outLen = s.outLen :=
      commitOk_keeps (fun u => u.outBuf = s.outBuf ∧ u.outLen = s.outLen) ⟨rfl, rfl⟩
        (fun l _ hl _ => absurd (hl ▸ Option.some_ne_none l) hout) (fun _ _ _ hu => hu) (fun _ hz' _ => absurd hz' hz)
    rw [complete_of_busy s h] at hne
    exact hne.elim (· hcommit.1) (· hcommit.2)

/-- Settles O52: of the three kinds of step, a host's keeps the results, the release is one of reset, and a completion
is one of the two commits. -/
theorem outputChangesOnlyAtItsCommits : Obligations.OutputChangesOnlyAtItsCommits := by
  unfold Obligations.OutputChangesOnlyAtItsCommits
  intro s t ht hne
  rcases step_results_cases ht with ⟨hr, _⟩ | ⟨-, o, r, hbusy, rfl⟩ | hsame
  · exact .inl hr
  · obtain ⟨res, rfl, hcommit⟩ := complete_output_cases (s := { s with events := r }) hbusy hne
    exact .inr ⟨res, hbusy, complete_idle _, hcommit⟩
  · exact absurd hne (by simp [hsame.outBuf, hsame.outLen])

/-! ### The inputs (R29 to R31, R34, R216) -/

/-- `t` holds the same inputs of commands as `s`: KEY, IV, IN_LEN and IN_BUF. -/
structure SameInputs (s t : State) : Prop where
  key : t.key = s.key
  iv : t.iv = s.iv
  inLen : t.inLen = s.inLen
  inBuf : t.inBuf = s.inBuf

/-- A completion clears the core, or keeps the inputs: the other commits write none of them (R264). -/
theorem complete_inputs_cases (s : State) :
    (∃ r, s.phase = .busy (.ok r) ∧ r.zeroize = true) ∨ SameInputs s (complete s) := by
  cases hp : s.phase with
  | idle =>
    rw [complete_of_idle s hp]
    exact .inr ⟨rfl, rfl, rfl, rfl⟩
  | busy o =>
    cases o with
    | fail c =>
      obtain ⟨-, hsame⟩ := complete_fail hp
      exact .inr ⟨hsame.key, hsame.iv, hsame.inLen, hsame.inBuf⟩
    | ok r =>
      by_cases hz : r.zeroize = true
      · exact .inl ⟨r, rfl, hz⟩
      · have hcommit : SameInputs s (commitOk r s) :=
          commitOk_keeps (SameInputs s) ⟨rfl, rfl, rfl, rfl⟩ (fun _ _ _ hu => ⟨hu.key, hu.iv, hu.inLen, hu.inBuf⟩)
            (fun _ _ _ hu => ⟨hu.key, hu.iv, hu.inLen, hu.inBuf⟩) (fun _ hz' _ => absurd hz' hz)
        rw [complete_of_busy s hp]
        exact .inr { hcommit with }

theorem SameInputs.of_onlyFlags {s t : State} (h : OnlyFlags s t) : SameInputs s t := by
  obtain ⟨_, _, _, _, _, rfl⟩ := h
  exact ⟨rfl, rfl, rfl, rfl⟩

/-- An event out of reset is a write to an idle core, or the completion, or keeps the inputs. -/
theorem serve_inputs_cases {e : Event} {s t : State} (ht : serve e s = .next t) :
    (s.phase = .idle ∧ ∃ off strb v, e = .write off strb v) ∨ t = complete s ∨ SameInputs s t := by
  cases e with
  | read off =>
    cases ht
    exact .inr (.inr (.of_onlyFlags (memRead_onlyFlags off s)))
  | write off strb v =>
    cases hp : s.phase with
    | idle => exact .inl ⟨rfl, off, strb, v, rfl⟩
    | busy o =>
      obtain ⟨u, hu, hflags⟩ := memWrite_of_busy hp off strb v
      cases hu.symm.trans ht
      exact .inr (.inr (.of_onlyFlags hflags))
  | complete =>
    cases ht
    exact .inr (.inl rfl)
  | resetAssert =>
    cases ht
    exact .inr (.inr ⟨rfl, rfl, rfl, rfl⟩)
  | resetRelease =>
    cases ht
    exact .inr (.inr ⟨rfl, rfl, rfl, rfl⟩)

/-- A step out of reset is the service of a write on an idle core, or the commit of a clearing, or keeps the inputs. -/
theorem step_inputs_cases {s t : State} (ht : step s = .next t) :
    s.inReset = true ∨
    (∃ r, s.phase = .busy (.ok r) ∧ t.phase = .idle ∧ r.zeroize = true) ∨
    (s.phase = .idle ∧ ∃ off strb v r, s.events = .write off strb v :: r) ∨ SameInputs s t := by
  have hcomplete : ∀ r, t = complete { s with events := r } →
      (∃ r, s.phase = .busy (.ok r) ∧ t.phase = .idle ∧ r.zeroize = true) ∨ SameInputs s t := by
    rintro r rfl
    rcases complete_inputs_cases { s with events := r } with ⟨res, hbusy, hz⟩ | hsame
    · exact .inl ⟨res, hbusy, complete_idle _, hz⟩
    · exact .inr { hsame with }
  rcases advance_cases s with ⟨hr, _⟩ | ⟨hr, _⟩ | ⟨_, _, hdue⟩ | ⟨_, e, r, he, hserve⟩
  · exact .inl hr
  · exact .inl hr
  · cases hdue.symm.trans ht
    exact .inr ((hcomplete s.events rfl).imp_right .inr)
  · rcases serve_inputs_cases (hserve.symm.trans ht) with ⟨hidle, off, strb, v, rfl⟩ | hdone | hsame
    · exact .inr (.inr (.inl ⟨hidle, off, strb, v, r, he⟩))
    · exact .inr ((hcomplete r hdone).imp_right .inr)
    · exact .inr (.inr (.inr { hsame with }))

/-- Settles O53, from the kinds of step seen from the inputs. -/
theorem inputsChangeOnlyByTheHostOrZeroize : Obligations.InputsChangeOnlyByTheHostOrZeroize := by
  unfold Obligations.InputsChangeOnlyByTheHostOrZeroize
  intro s t ht hne
  rcases step_inputs_cases ht with hr | hclear | hwrite | hsame
  · exact .inl hr
  · exact .inr (.inl hclear)
  · exact .inr (.inr hwrite)
  · exact absurd hne (by simp [hsame.key, hsame.iv, hsame.inLen, hsame.inBuf])

end Sys2Proof.Machine
end

section
/-! PROOFS. The field (R122, R123) and the S-box (R124 to R127): the loop of gf_mul builds every byte from 1 by doubling
and XOR, so a law that both keep holds of every byte; the inverse of a byte read off the S-box; and from these O24 to
O26 and O30. -/

namespace Sys2Proof.Machine

/-! ### Every byte is built from 1 by xtime and XOR -/

theorem gfMulFrom_induction {P : Byte → Prop} (hxtime : ∀ a, P a → P (xtime a)) (hxor : ∀ a b, P a → P b → P (a ^^^ b))
    (b : Byte) (n : Nat) {a p : Byte} (ha : P a) (hp : P p) : P (gfMulFrom b n a p) := by
  induction n generalizing a p with
  | zero => exact hp
  | succ n ih =>
    refine ih (hxtime a ha) ?_
    split
    · exact hxor p a hp ha
    · exact hp

/-- Induction on the bytes: `gf_mul(1, b) = b` builds `b`. -/
theorem byte_induction {P : Byte → Prop} (hone : P 0x01#8) (hxtime : ∀ a, P a → P (xtime a))
    (hxor : ∀ a b, P a → P b → P (a ^^^ b)) (b : Byte) : P b := by
  have hzero : P 0x00#8 := by simpa using hxor _ _ hone hone
  exact gfMul_one_left b ▸ gfMulFrom_induction hxtime hxor b 8 hone hzero

/-! ### The laws of multiplication (R123) -/

theorem gfMul_one_right (a : Byte) : gfMul a 0x01#8 = a := by
  induction a using byte_induction with
  | hone => rfl
  | hxtime a ih => rw [gfMul_xtime_left, ih]
  | hxor a b iha ihb => rw [gfMul_xor_left, iha, ihb]

theorem gfMul_xtime_right (a b : Byte) : gfMul a (xtime b) = xtime (gfMul a b) := by
  induction a using byte_induction with
  | hone => rw [gfMul_one_left, gfMul_one_left]
  | hxtime a ih => rw [gfMul_xtime_left, ih, gfMul_xtime_left]
  | hxor a a' iha iha' => rw [gfMul_xor_left, iha, iha', gfMul_xor_left, xtime_xor]

theorem gfMul_comm (a b : Byte) : gfMul a b = gfMul b a := by
  induction a using byte_induction with
  | hone => rw [gfMul_one_left, gfMul_one_right]
  | hxtime a ih => rw [gfMul_xtime_left, ih, gfMul_xtime_right]
  | hxor a a' iha iha' => rw [gfMul_xor_left, iha, iha', gfMul_xor_right]

theorem gfMul_assoc (a b c : Byte) : gfMul (gfMul a b) c = gfMul a (gfMul b c) := by
  induction a using byte_induction with
  | hone => rw [gfMul_one_left, gfMul_one_left]
  | hxtime a ih => rw [gfMul_xtime_left, gfMul_xtime_left, ih, gfMul_xtime_left]
  | hxor a a' iha iha' => rw [gfMul_xor_left, gfMul_xor_left, iha, iha', gfMul_xor_left]

theorem gfMul_zero_left (b : Byte) : gfMul 0x00#8 b = 0x00#8 := by
  have h := gfMul_xor_left b b b
  rwa [BitVec.xor_self, BitVec.xor_self] at h

/-! ### Inverses -/

/-- The inverse that the S-box holds: its affine map undone (R125). -/
def sboxInverse (x : Byte) : Byte :=
  (sbox x).rotateLeft 1 ^^^ (sbox x).rotateLeft 3 ^^^ (sbox x).rotateLeft 6 ^^^ 0x05#8

theorem sboxInverse_zero : sboxInverse 0x00#8 = 0x00#8 := by
  decide

theorem sboxAffine_sboxInverse (x : Byte) : sboxAffine (sboxInverse x) = sbox x := by
  revert x
  decide +kernel

theorem gfMul_sboxInverse {x : Byte} (h : x ≠ 0) : gfMul x (sboxInverse x) = 0x01#8 := by
  revert x
  decide +kernel

theorem gfMul_inverse_unique {a b c : Byte} (hb : gfMul a b = 0x01#8) (hc : gfMul a c = 0x01#8) : c = b := by
  calc c = gfMul (gfMul a b) c := by rw [hb, gfMul_one_left]
    _ = gfMul b (gfMul a c) := by rw [gfMul_comm a b, gfMul_assoc]
    _ = b := by rw [hc, gfMul_one_right]

/-! ### The obligations -/

/-- Settles O26: the laws by induction on the first factor; the inverse is the S-box's, and it is the only one by
associativity. -/
theorem fieldLaws : Obligations.FieldLaws := by
  unfold Obligations.FieldLaws
  refine ⟨gfMul_comm, gfMul_assoc, gfMul_xor_right, gfMul_one_left,
    fun a ha => ⟨sboxInverse a, gfMul_sboxInverse ha, fun c => gfMul_inverse_unique (gfMul_sboxInverse ha)⟩,
    fun b => ?_, by decide⟩
  rw [gfMul_zero_left]
  decide

/-- Settles O24, from the two tables' entries. -/
theorem sboxTablesAreInverse : Obligations.SboxTablesAreInverse := by
  unfold Obligations.SboxTablesAreInverse
  exact ⟨invSbox_sbox, sbox_invSbox⟩

/-- Settles O25: the byte under the affine map is the field inverse. -/
theorem sboxIsTheAffineInverse : Obligations.SboxIsTheAffineInverse := by
  unfold Obligations.SboxIsTheAffineInverse
  refine fun x => ⟨sboxInverse x, ?_, (sboxAffine_sboxInverse x).symm⟩
  rcases eq_or_ne x 0 with rfl | hx
  · exact .inl ⟨rfl, sboxInverse_zero⟩
  · exact .inr (gfMul_sboxInverse hx)

/-- Settles O30: SubBytes acts on each byte alone and ShiftRows only moves bytes, so they commute; the pairs are those
of the transforms. -/
theorem roundTransformsAreInversePairs : Obligations.RoundTransformsAreInversePairs := by
  unfold Obligations.RoundTransformsAreInversePairs
  exact ⟨addRoundKey_addRoundKey, fun s => ⟨invSubBytes_subBytes s, invShiftRows_shiftRows s,
    invMixColumns_mixColumns s, rfl, rfl⟩⟩

end Sys2Proof.Machine
end

section
/-! PROOFS. The key schedule (R140, R143): its words stand four bytes each in the schedule, and each word after the
fourth is the recurrence on the word before it and the word four before it; and from these O32. -/

namespace Sys2Proof.Machine

/-! ### The words of a schedule -/

/-- Word `i` of the bytes of a sequence of words is its element `i`. -/
theorem wordOfSchedule_flatMap (ws : List Quad) {i : Nat} (h : i < ws.length) :
    wordOfSchedule (ws.flatMap quadBytes) i = ws[i] := by
  induction ws generalizing i with
  | nil => cases h
  | cons w r ih =>
    cases i with
    | zero => rfl
    | succ i =>
      have hshift : wordOfSchedule ((w :: r).flatMap quadBytes) (i + 1) = wordOfSchedule (r.flatMap quadBytes) i := rfl
      rw [hshift, ih (Nat.lt_of_succ_lt_succ h), List.getElem_cons_succ]

/-- The recurrence of R140 along the list: four words after a word comes that word XORed with what the word between
gives. -/
theorem getElem_expandFrom (n i : Nat) (a b c d : Quad) {j : Nat} (h : j < n) :
    (a :: b :: c :: d :: expandFrom n i a b c d)[j + 4]'(by simp; omega) =
      xorQuad (scheduleTemp (i + j) ((a :: b :: c :: d :: expandFrom n i a b c d)[j + 3]'(by simp; omega)))
        ((a :: b :: c :: d :: expandFrom n i a b c d)[j]'(by simp; omega)) := by
  induction n generalizing i a b c d j with
  | zero => cases h
  | succ n ih =>
    cases j with
    | zero => rfl
    | succ j =>
      rw [show i + (j + 1) = i + 1 + j by omega]
      exact ih (i + 1) b c d (xorQuad (scheduleTemp i d) a) (Nat.lt_of_succ_lt_succ h)

theorem wordOfSchedule_keyExpansion (k : Block) {i : Nat} (h : i < (keyWords k).length) :
    wordOfSchedule (keyExpansion k) i = (keyWords k)[i] :=
  wordOfSchedule_flatMap (keyWords k) h

theorem wordOfSchedule_recurrence (k : Block) {j : Nat} (h : j < 40) :
    wordOfSchedule (keyExpansion k) (j + 4) =
      xorQuad (scheduleTemp (4 + j) (wordOfSchedule (keyExpansion k) (j + 3))) (wordOfSchedule (keyExpansion k) j) := by
  rw [wordOfSchedule_keyExpansion k (by simp; omega), wordOfSchedule_keyExpansion k (by simp; omega),
    wordOfSchedule_keyExpansion k (by simp; omega)]
  exact getElem_expandFrom 40 4 k.c0 k.c1 k.c2 k.c3 h

theorem take_keyExpansion (k : Block) : (keyExpansion k).take 16 = blockBytes k := rfl

/-- Settles O32: the recurrence at the new word's index, where `scheduleTemp` is the case split of R140. -/
theorem keyExpansionRecurrence : Obligations.KeyExpansionRecurrence := by
  unfold Obligations.KeyExpansionRecurrence
  refine fun k => ⟨length_keyExpansion k, take_keyExpansion k, fun i hlo hhi => ?_⟩
  obtain ⟨j, rfl⟩ := Nat.exists_eq_add_of_le' hlo
  rw [wordOfSchedule_recurrence k (by omega), Nat.add_comm 4 j]
  rfl

end Sys2Proof.Machine
end

section
/-! PROOFS. The inverse laws of padding and of CBC (R211, R219, R243): the pad that Pad appends is good, so Unpad takes
it off; the decryption chain undoes the encryption chain; CBC_ENC from issue to completion, and CBC_DEC of its output;
and from these O37, O34, O14 and O38. -/

namespace Sys2Proof.Machine

/-! ### Unpad undoes Pad (R243) -/

theorem byteAt_replicate (b : Byte) {p i : Nat} (h : i < p) : byteAt (List.replicate p b) i = b := by
  rw [byteAt, List.getD_eq_getElem _ _ (by simpa using h), List.getElem_replicate]

/-- The bytes after the data are the pad. -/
theorem toNat_byteAt_withPad (d : List Byte) {n i : Nat} (hn : n ≤ 255) (hlo : d.length ≤ i)
    (hhi : i < (withPad d n).length) : (byteAt (withPad d n) i).toNat = n - d.length % n := by
  rw [length_withPad] at hhi
  rw [withPad, byteAt_append_right hlo, byteAt_replicate _ (by omega), BitVec.toNat_ofNat]
  omega

theorem claimedPad_withPad (d : List Byte) {n : Nat} (h : 1 ≤ n) (h' : n ≤ 255) :
    claimedPad (withPad d n) = n - d.length % n := by
  have hrem := Nat.mod_lt d.length h
  have hlen := length_withPad d n
  exact toNat_byteAt_withPad d h' (by omega) (by omega)

theorem goodPad_withPad (d : List Byte) {n : Nat} (h : 1 ≤ n) (h' : n ≤ 255) : GoodPad (withPad d n) n := by
  have hrem := Nat.mod_lt d.length h
  have hlen := length_withPad d n
  rw [GoodPad, claimedPad_withPad d h h']
  exact ⟨by omega, by omega, by omega, fun i hlo hhi => toNat_byteAt_withPad d h' (by omega) hhi⟩

theorem unpadBytes_withPad (d : List Byte) {n : Nat} (h : 1 ≤ n) (h' : n ≤ 255) :
    unpadBytes (withPad d n) n = .ok d := by
  have hrem := Nat.mod_lt d.length h
  have hlen := length_withPad d n
  have hwhole : (withPad d n).length % n = 0 := by
    rw [hlen, add_sub_mod_eq_mul _ h]
    exact Nat.mul_mod_right n _
  have hdata : (withPad d n).length - claimedPad (withPad d n) = d.length := by
    rw [claimedPad_withPad d h h', hlen]
    omega
  rw [unpadBytes_of_goodPad h h' (by omega) hwhole (goodPad_withPad d h h'), hdata, withPad, List.take_left]

/-- Settles O37: Pad's answer ends in a good pad. -/
theorem unpadInvertsPad : Obligations.UnpadInvertsPad := by
  unfold Obligations.UnpadInvertsPad
  exact fun d n h h' => ⟨withPad d n, padBytes_of_good_size d h h', unpadBytes_withPad d h h'⟩

/-! ### Whole blocks -/

theorem blockByte_blockAt (l : List Byte) (j : Nat) {k : Nat} (h : k < 16) :
    blockByte (blockAt l j) k = byteAt l (16 * j + k) := by
  interval_cases k <;> rfl

/-- The blocks of a sequence of whole blocks hold all of it. -/
theorem bytesOfBlocks_blocksOf {l : List Byte} {m : Nat} (h : l.length = 16 * m) :
    bytesOfBlocks (blocksOf l m) = l := by
  have hlen : (bytesOfBlocks (blocksOf l m)).length = l.length := by simp [h]
  refine List.ext_getElem hlen fun i hi hl => ?_
  have hblock : i / 16 < (blocksOf l m).length := by
    rw [length_blocksOf]
    omega
  calc (bytesOfBlocks (blocksOf l m))[i]
      = byteAt (bytesOfBlocks (blocksOf l m)) (16 * (i / 16) + i % 16) := by
        rw [Nat.div_add_mod, byteAt, List.getD_eq_getElem _ _ hi]
    _ = blockByte (blockAt (bytesOfBlocks (blocksOf l m)) (i / 16)) (i % 16) :=
        (blockByte_blockAt _ _ (Nat.mod_lt i (by decide))).symm
    _ = blockByte (blockAt l (i / 16)) (i % 16) := by
        rw [blockAt_bytesOfBlocks _ _ hblock, getElem_blocksOf]
    _ = l[i] := by
        rw [blockByte_blockAt _ _ (Nat.mod_lt i (by decide)), Nat.div_add_mod, byteAt, List.getD_eq_getElem _ _ hl]

/-! ### The decryption chain (R211) -/

theorem getElem_cbcDecryptChain (rk : List Byte) (prev : Block) (bs : List Block) {j : Nat} (h : j < bs.length)
    (hc : j < (cbcDecryptChain rk prev bs).length) :
    (cbcDecryptChain rk prev bs)[j] =
      xorBlock (decryptBlock rk bs[j]) ((prev :: bs)[j]'(Nat.lt_succ_of_lt h)) := by
  induction bs generalizing prev j with
  | nil => cases h
  | cons c r ih =>
    cases j with
    | zero => rfl
    | succ j => exact ih c (Nat.lt_of_succ_lt_succ h) (Nat.lt_of_succ_lt_succ hc)

theorem cbcDecryptChain_cbcEncryptChain (rk : List Byte) (prev : Block) (bs : List Block) :
    cbcDecryptChain rk prev (cbcEncryptChain rk prev bs) = bs := by
  induction bs generalizing prev with
  | nil => rfl
  | cons x r ih =>
    rw [cbcEncryptChain, cbcDecryptChain, ih, decryptBlock_encryptBlock, xorBlock_xorBlock_same]

theorem cbcDecryptBlocks_cbcEncryptBlocks (rk : List Byte) (iv : Block) {p : List Byte} (h : p.length % 16 = 0) :
    cbcDecryptBlocks rk iv (cbcEncryptBlocks rk iv p) = p := by
  have hblocks : (cbcEncryptBlocks rk iv p).length / 16 =
      (cbcEncryptChain rk iv (blocksOf p (p.length / 16))).length := by
    simp
  rw [cbcDecryptBlocks, hblocks, cbcEncryptBlocks, blocksOf_bytesOfBlocks, cbcDecryptChain_cbcEncryptChain,
    bytesOfBlocks_blocksOf (by omega)]

/-- Settles O34: block `j` of the plaintext is element `j` of the chain, and the block before block `j` of the
ciphertext is the element before or the IV. -/
theorem cbcDecryptionUnchains : Obligations.CbcDecryptionUnchains := by
  unfold Obligations.CbcDecryptionUnchains
  refine fun rk iv c hwhole => ⟨by rw [length_cbcDecryptBlocks]; omega, fun j hj => ?_,
    cbcDecryptBlocks_cbcEncryptBlocks rk iv hwhole⟩
  have hblocks : j < (blocksOf c (c.length / 16)).length := by simpa using hj
  have hchain : j < (cbcDecryptChain rk iv (blocksOf c (c.length / 16))).length := by simpa using hj
  rw [cbcDecryptBlocks, blockAt_bytesOfBlocks _ j hchain, getElem_cbcDecryptChain rk iv _ hblocks hchain,
    getElem_blocksOf, getElem_cons_eq_blockAt, bytesOfBlocks_blocksOf (by omega)]

/-! ### CBC_ENC (R212) -/

/-- The ciphertext of an input: the chain over the data with its pad. -/
def cbcEncOutput (s : State) : List Byte :=
  cbcEncryptBlocks (rkIn s) s.iv (withPad (dataIn s) 16)

theorem length_withPad_dataIn (s : State) : (withPad (dataIn s) 16).length = 16 * (lengthIn s / 16 + 1) := by
  rw [length_withPad, length_dataIn, add_sub_mod_eq_mul _ (by decide)]

theorem length_cbcEncOutput (s : State) : (cbcEncOutput s).length = 16 * (lengthIn s / 16 + 1) := by
  rw [cbcEncOutput, length_cbcEncryptBlocks, length_withPad_dataIn]
  omega

/-- With room for the pad, CBC_ENC outputs the ciphertext: BUF_BYTES is whole blocks (R9). -/
theorem cbcEnc_outputs {s : State} (b : Nat) (hidle : s.phase = .idle) (hlegal : Config.legalBufBytes s.bufBytes)
    (hkeyv : s.keyv = true) (hfits : lengthIn s < s.bufBytes) : CommandOutputs (.cbcEnc b) s (cbcEncOutput s) := by
  obtain ⟨-, hcap, hwhole⟩ := hlegal
  have hlen := length_cbcEncOutput s
  refine commandOutputs_of_outcome hidle (by omega) ?_
  rw [outcomeOf_cbcEnc, if_neg (by simp [hkeyv]), if_neg (by omega), if_neg (by omega), cbcEncOutput]

/-- Settles O14: the three tests of CBC_ENC's semantic function, of which the last is on the padded length. -/
theorem cbcEncPadsAndChains : Obligations.CbcEncPadsAndChains := by
  unfold Obligations.CbcEncPadsAndChains
  refine ⟨hasOpcode_of_instrOf fun _ => rfl, fun s b hidle hlegal => ⟨fun hkeyv => commandFails_of_outcome hidle ?_,
    fun hkeyv hover => commandFails_of_outcome hidle ?_, fun hkeyv hfull => commandFails_of_outcome hidle ?_,
    fun hkeyv hfits => ?_⟩⟩
  · rw [outcomeOf_cbcEnc, if_pos hkeyv]
  · rw [outcomeOf_cbcEnc, if_neg (by simp [hkeyv]), if_pos hover]
  · rw [outcomeOf_cbcEnc, if_neg (by simp [hkeyv]), if_neg (by omega), if_pos (by omega)]
  · intro p out
    have hout : cbcEncOutput s = out := by
      rw [cbcEncOutput, withPad, length_dataIn]
    exact hout ▸ ⟨length_cbcEncOutput s, cbcEnc_outputs b hidle hlegal hkeyv hfits⟩

/-! ### CBC_DEC of what CBC_ENC gave (R219) -/

theorem cbcDec_of_cbcEncOutput {s s' : State} (b : Nat) (hidle : s'.phase = .idle) (hkeyv : s'.keyv = true)
    (hrk : s'.rk = s.rk) (hiv : s'.iv = s.iv) (hcap : (cbcEncOutput s).length ≤ s'.bufBytes)
    (hlen : lengthIn s' = (cbcEncOutput s).length) (hdata : dataIn s' = cbcEncOutput s) :
    CommandOutputs (.cbcDec b) s' (dataIn s) := by
  have hlt := lengthIn_lt s
  have hwhole := length_withPad_dataIn s
  have hcipher := length_cbcEncOutput s
  have hq : cbcDecryptBlocks (rkIn s') s'.iv (dataIn s') = withPad (dataIn s) 16 := by
    rw [hdata, cbcEncOutput, rkIn, rkIn, hrk, hiv, cbcDecryptBlocks_cbcEncryptBlocks _ _ (by omega)]
  refine commandOutputs_of_outcome hidle (by rwa [length_dataIn]) ?_
  rw [outcomeOf_cbcDec, outcomeOnWholeBlocks, if_neg (by simp [hkeyv]), if_neg (by omega), if_neg (by omega), hq,
    unpadBytes_withPad _ (by decide) (by decide), outcomeOfUnpad]

/-- Settles O38: CBC_ENC's output is what OUT_LEN and OUT_BUF hold, and as an input it decrypts to the padded data. -/
theorem paddedCbcRoundTrip : Obligations.PaddedCbcRoundTrip := by
  unfold Obligations.PaddedCbcRoundTrip
  intro s b hidle hkeyv hlegal hfits
  obtain ⟨t, hexec, -, hdone, houtLen, houtBuf, -⟩ := cbcEnc_outputs b hidle hlegal hkeyv hfits
  refine ⟨t, hexec, hdone, fun s' b' hidle' hkeyv' hrk hiv hcap hinLen hdata => ?_⟩
  rw [houtLen, houtBuf] at hdata
  have hlen : lengthIn s' = (cbcEncOutput s).length := by rw [lengthIn, hinLen, houtLen]
  have hroom : (cbcEncOutput s).length ≤ s'.bufBytes := by
    obtain ⟨-, -, hwhole⟩ := hlegal
    rw [length_cbcEncOutput, hcap]
    omega
  exact cbcDec_of_cbcEncOutput b' hidle' hkeyv' hrk hiv hroom hlen hdata

end Sys2Proof.Machine
end

section
/-! PROOFS. The registers and windows as read (R22 to R35, R60, R64): the error codes and the bits of STATUS; the byte a
read loads from each range of the map, none of which is key material; and from these O22, O40, O42, O46 and O47. -/

namespace Sys2Proof.Machine

/-! ### ERRCODE and STATUS (R25, R28) -/

theorem errcodeWord_eq_setWidth (s : State) : errcodeWord s = (errNumber s.errcode).setWidth 32 := by
  have hzero : ∀ x : BitVec 4, 0#28 ++ x = x.setWidth 32 := by decide
  exact hzero _

theorem errFlag_eq_true_iff (s : State) : errFlag s = true ↔ s.errcode ≠ .none := by
  unfold errFlag
  cases s.errcode <;> decide

/-- Settles O22: the numbers are the table's, and every code but `none` has a nonzero one. -/
theorem errorCodesAndTheirNumbers : Obligations.ErrorCodesAndTheirNumbers := by
  unfold Obligations.ErrorCodesAndTheirNumbers
  exact ⟨rfl, rfl, rfl, rfl, rfl, rfl, rfl, rfl, fun s => ⟨errcodeWord_eq_setWidth s, errFlag_eq_true_iff s⟩⟩

theorem getLsbD_append_ofBool {w : Nat} (x : BitVec w) (b : Bool) (i : Nat) :
    (x ++ BitVec.ofBool b).getLsbD i = if i = 0 then b else x.getLsbD (i - 1) := by
  rw [BitVec.getLsbD_append]
  cases i <;> simp

theorem getLsbD_statusWord (s : State) (i : Nat) :
    (statusWord s).getLsbD i = [isBusy s, s.done, errFlag s, s.keyv, s.wib].getD i false := by
  unfold statusWord
  simp only [getLsbD_append_ofBool, BitVec.getLsbD_zero]
  match i with
  | 0 | 1 | 2 | 3 | 4 => rfl
  | i + 5 => rfl

/-- Settles O40: STATUS is its five flags, and the write is that of R66. -/
theorem statusBitsAndTheirClearing : Obligations.StatusBitsAndTheirClearing := by
  unfold Obligations.StatusBitsAndTheirClearing
  refine fun s => ⟨⟨getLsbD_statusWord s 0, getLsbD_statusWord s 1, ?err, getLsbD_statusWord s 3,
    getLsbD_statusWord s 4, fun i hi => ?above⟩, fun v hr _ => step_full_control_write hr v (by decide) (by decide)⟩
  case err =>
    rw [getLsbD_statusWord]
    exact errFlag_eq_true_iff s
  case above =>
    rw [getLsbD_statusWord]
    exact List.getD_eq_default _ _ hi

/-! ### The bytes of the map (R64) -/

section
variable (s : State) {a : Nat}

theorem loadByte_control (h : a < 0x020) : loadByte s a = lane (controlReg s (a / 4)) (a % 4) :=
  if_pos h

theorem loadByte_key (h : 0x020 ≤ a) (h' : a < 0x030) : loadByte s a = 0x00#8 := by
  rw [loadByte, if_neg (by omega), if_pos h']

theorem loadByte_iv (h : 0x030 ≤ a) (h' : a < 0x040) : loadByte s a = blockByte s.iv (a - 0x030) := by
  simp (disch := omega) only [loadByte, if_neg, if_pos]

theorem loadByte_inBuf (h : 0x1000 ≤ a) (h' : a < 0x2000) : loadByte s a = s.inBuf.read (a - 0x1000) := by
  simp (disch := omega) only [loadByte, if_neg, if_pos]

theorem loadByte_outBuf (h : 0x2000 ≤ a) : loadByte s a = s.outBuf.read (a - 0x2000) := by
  simp (disch := omega) only [loadByte, if_neg]

end

/-! ### An aligned read of a mapped offset (R60) -/

/-- A word is given by its lanes. -/
theorem wordFrom_eq_of_lanes {f : Nat → Byte} {off : Nat} {d : Word} (h : ∀ i, i < 4 → f (off + i) = lane d i) :
    wordFrom f off = d := by
  rw [wordFrom, h 3 (by decide), h 2 (by decide), h 1 (by decide), show f off = lane d 0 from h 0 (by decide),
    lane, lane, lane, lane, BitVec.extractLsb'_append_extractLsb'_eq_extractLsb' (start₂ := 8 * 3) (start₁ := 8 * 2) rfl,
    BitVec.extractLsb'_append_extractLsb'_eq_extractLsb' (start₂ := 8 * 2) (start₁ := 8 * 1) rfl,
    BitVec.extractLsb'_append_extractLsb'_eq_extractLsb' (start₂ := 8 * 1) (start₁ := 8 * 0) rfl]
  exact BitVec.extractLsb'_eq_self

theorem step_okay_read {s : State} (hr : s.inReset = false) {off : Offset} {d : Word} (hok : badOffset s off = false)
    (hfree : isBusy s = false ∨ inOutBuf s.bufBytes off.toNat = false)
    (hlanes : ∀ i, i < 4 → loadByte s (off.toNat + i) = lane d i) :
    step (before (.read off) s) = .next (answer (.read d .okay) s) := by
  rw [step_before_read hr]
  rcases memRead_cases off s with ⟨hbad, _⟩ | ⟨_, hbusy, hin, _⟩ | ⟨_, _, hread⟩
  · simp [hok] at hbad
  · simp [hbusy, hin] at hfree
  · rw [hread, wordFrom_eq_of_lanes hlanes]

theorem inOutBuf_eq_false {n off : Nat} (h : off < 0x2000) : inOutBuf n off = false := by
  simp [inOutBuf, h]

/-- A control register reads as its word (R64). -/
theorem step_control_read {s : State} (hr : s.inReset = false) {off : Offset} (halign : off.toNat % 4 = 0)
    (hlt : off.toNat < 0x020) :
    step (before (.read off) s) = .next (answer (.read (controlReg s (off.toNat / 4)) .okay) s) := by
  refine step_okay_read hr ((badOffset_eq_false_iff s off).2 ⟨halign, .inl (by omega)⟩)
    (.inr (inOutBuf_eq_false (by omega))) fun i hi => ?_
  rw [loadByte_control s (by omega), show (off.toNat + i) / 4 = off.toNat / 4 by omega,
    show (off.toNat + i) % 4 = i by omega]

theorem ctrlWord_eq_ite (s : State) : ctrlWord s = if s.ie then 1 else 0 := by
  unfold ctrlWord
  cases s.ie <;> rfl

theorem lane_zero (i : Nat) : lane 0 i = 0x00#8 := by
  simp [lane]

/-- Settles O42: the control registers by number, and the windows byte by byte. -/
theorem readsAnswerTheMappedWord : Obligations.ReadsAnswerTheMappedWord := by
  unfold Obligations.ReadsAnswerTheMappedWord
  rintro s off hr ⟨-, hcap, hwhole⟩ halign d hd
  have hok := (badOffset_eq_false_iff s off).2
  rcases hd with ⟨rfl, rfl⟩ | ⟨rfl, rfl⟩ | ⟨rfl, rfl⟩ | ⟨rfl, rfl⟩ | ⟨rfl, rfl⟩ | ⟨rfl, rfl⟩ | ⟨rfl, rfl⟩ | ⟨rfl, rfl⟩ |
    ⟨hlo, hhi, rfl⟩ | ⟨hlo, hhi, hlanes⟩ | ⟨hlo, hhi, hlanes⟩ | ⟨hlo, hhi, hidle, hlanes⟩
  · exact step_control_read hr halign (by decide)
  · rw [← ctrlWord_eq_ite]
    exact step_control_read hr halign (by decide)
  · exact step_control_read hr halign (by decide)
  · exact step_control_read hr halign (by decide)
  · rw [← errcodeWord_eq_setWidth]
    exact step_control_read hr halign (by decide)
  · exact step_control_read hr halign (by decide)
  · exact step_control_read hr halign (by decide)
  · exact step_control_read hr halign (by decide)
  · refine step_okay_read hr (hok ⟨halign, .inl (by omega)⟩) (.inr (inOutBuf_eq_false (by omega))) fun i hi => ?_
    rw [loadByte_key s (by omega) (by omega), lane_zero]
  · refine step_okay_read hr (hok ⟨halign, .inl hhi⟩) (.inr (inOutBuf_eq_false (by omega))) fun i hi => ?_
    rw [loadByte_iv s (by omega) (by omega), lane, hlanes i hi, Nat.sub_add_comm hlo]
  · refine step_okay_read hr (hok ⟨halign, .inr (.inl ⟨hlo, hhi⟩)⟩) (.inr (inOutBuf_eq_false (by omega))) fun i hi => ?_
    rw [loadByte_inBuf s (by omega) (by omega), lane, hlanes i hi, Nat.sub_add_comm hlo]
  · refine step_okay_read hr (hok ⟨halign, .inr (.inr ⟨hlo, hhi⟩)⟩) (.inl (isBusy_of_idle s hidle)) fun i hi => ?_
    rw [loadByte_outBuf s (by omega), lane, hlanes i hi, Nat.sub_add_comm hlo]

/-! ### What a read changes and what it depends on (R82, R312) -/

/-- Settles O46, from the frame of a read. -/
theorem readsChangeNothing : Obligations.ReadsChangeNothing := by
  unfold Obligations.ReadsChangeNothing
  intro s off hr
  obtain ⟨a, n, hread⟩ := memRead_frame off s
  exact ⟨_, a, n, step_before_read hr off, hread⟩

/-- What a read outside OUT_BUF answers. -/
def readAnswer (off : Offset) (s : State) : Answer :=
  if badOffset s off then .read 0x00000000#32 .error else .read (wordFrom (loadByte s) off.toNat) .okay

theorem memRead_outside_outBuf {s : State} {off : Offset} (h : inOutBuf s.bufBytes off.toNat = false) :
    memRead off s = answer (readAnswer off s) s := by
  unfold readAnswer
  rcases memRead_cases off s with ⟨hbad, herror⟩ | ⟨_, _, hin, _⟩ | ⟨hok, _, hread⟩
  · rw [if_pos hbad, herror]
  · cases h.symm.trans hin
  · rw [if_neg (by simp [hok]), hread]

/-- No byte of the map is one of KEY's or RK's (R30, R37). -/
theorem readAnswer_of_other_key (off : Offset) (s : State) (k : Block) (m : Memory) :
    readAnswer off { s with key := k, rk := m } = readAnswer off s := rfl

/-- Settles O47: the answer to such a read looks at neither KEY nor RK. -/
theorem readsRevealNoKeyMaterial : Obligations.ReadsRevealNoKeyMaterial := by
  unfold Obligations.ReadsRevealNoKeyMaterial
  intro s k m off hr hout
  refine ⟨readAnswer off s, _, _, step_before_read hr off,
    step_before_read (s := { s with key := k, rk := m }) hr off, ?_, ?_⟩
  · rw [memRead_outside_outBuf hout, answer_answers]
  · rw [memRead_outside_outBuf (s := { s with key := k, rk := m }) hout, answer_answers, readAnswer_of_other_key]

end Sys2Proof.Machine
end

section
/-! PROOFS. The host's pseudo-instructions LDKEY and LDBUF (R62, R69, R99): the lanes of a word written to KEY and to
IN_BUF; the run of the writes, word by word; and from these O48 and O49. -/

namespace Sys2Proof.Machine

/-! ### The lanes of a word (R62) -/

theorem lane_wordFrom (f : Nat → Byte) (off : Nat) {i : Nat} (h : i < 4) : lane (wordFrom f off) i = f (off + i) := by
  unfold lane wordFrom
  match i with
  | 0 => exact BitVec.extractLsb'_append_eq_right
  | 1 =>
    rw [BitVec.extractLsb'_append_eq_of_le (by decide)]
    exact BitVec.extractLsb'_append_eq_right
  | 2 =>
    rw [BitVec.extractLsb'_append_eq_of_le (by decide), BitVec.extractLsb'_append_eq_of_le (by decide)]
    exact BitVec.extractLsb'_append_eq_right
  | 3 =>
    rw [BitVec.extractLsb'_append_eq_of_le (by decide), BitVec.extractLsb'_append_eq_of_le (by decide),
      BitVec.extractLsb'_append_eq_of_le (by decide)]
    exact BitVec.extractLsb'_eq_self

/-- A key word carries its first byte in lane 0 (R69). -/
theorem lane_quadWord (q : Quad) {i : Nat} (h : i < 4) : lane (quadWord q) i = byteAt (quadBytes q) (0 + i) :=
  lane_wordFrom (byteAt (quadBytes q)) 0 h

/-! ### LDKEY -/

/-- The block with column `w` in place of its own. -/
def setColumn (b : Block) (w : Nat) (q : Quad) : Block :=
  match w with
  | 0 => { b with c0 := q }
  | 1 => { b with c1 := q }
  | 2 => { b with c2 := q }
  | _ => { b with c3 := q }

theorem setColumn_four (b k : Block) :
    setColumn (setColumn (setColumn (setColumn b 0 k.c0) 1 k.c1) 2 k.c2) 3 k.c3 = k := rfl

theorem storeLane_full (store : Nat → Byte → State → State) (base : Nat) (v : Word) {i : Nat} (h : i < 4) (s : State) :
    storeLane store base 0b1111#4 v i s = store (base + i) (lane v i) s := by
  have hset : (0b1111#4).getLsbD i = true := by interval_cases i <;> rfl
  rw [storeLane, if_pos hset]

/-- A byte stored in a key given by a rule on its indexes changes the rule at that index. -/
theorem storeKey_blockFrom (g : Nat → Byte) (i : Nat) (b : Byte) (s : State) :
    storeKey i b { s with key := blockFrom g 0 } =
      { s with key := blockFrom (fun k => if k = i then b else g k) 0 } := by
  have hkey : blockFrom (fun k => if k = i then b else blockByte (blockFrom g 0) k) 0 =
      blockFrom (fun k => if k = i then b else g k) 0 :=
    blockFrom_congr fun k hk => by simp only [blockByte_blockFrom g (show 0 + k < 16 by omega)]
  rw [storeKey, hkey]

/-- A whole word of an idle core's KEY takes the bytes of its column. -/
theorem writeWindow_key_word {s : State} (hidle : s.phase = .idle) {w : Nat} (h : w < 4) (q : Quad) :
    writeWindow storeKey (4 * w) 0b1111#4 (quadWord q) s = { s with key := setColumn s.key w q } := by
  rw [writeWindow_of_idle _ _ _ _ (isBusy_of_idle s hidle), storeLane_full _ _ _ (by decide),
    storeLane_full _ _ _ (by decide), storeLane_full _ _ _ (by decide), storeLane_full _ _ _ (by decide),
    lane_quadWord q (by decide), lane_quadWord q (by decide), lane_quadWord q (by decide), lane_quadWord q (by decide),
    show s = { s with key := blockFrom (blockByte s.key) 0 } from rfl, storeKey_blockFrom, storeKey_blockFrom,
    storeKey_blockFrom, storeKey_blockFrom]
  interval_cases w <;> rfl

theorem toNat_wordOffset {base w : Nat} (h : base + 4 * w < 0x4000) : (wordOffset base w).toNat = base + 4 * w := by
  rw [wordOffset, BitVec.toNat_ofNat, Nat.mod_eq_of_lt h]

/-- The event that a statement of LDKEY makes. -/
def keyWrite (w : Nat) (q : Quad) : Event :=
  .write (wordOffset 0x020 w) 0b1111#4 (quadWord q)

theorem step_keyWrite {s : State} (hr : s.inReset = false) (hidle : s.phase = .idle) {w : Nat} (h : w < 4) (q : Quad) :
    step (before (keyWrite w q) s) =
      .next (answer (.written .okay) { s with key := setColumn s.key w q }) := by
  have hoff := toNat_wordOffset (base := 0x020) (w := w) (by omega)
  have hok : badOffset s (wordOffset 0x020 w) = false := (badOffset_eq_false_iff _ _).2 ⟨by omega, .inl (by omega)⟩
  rw [keyWrite, step_okay_write hr _ hok fun _ => rfl, writeLocation_key _ _ _ (by omega) (by omega), hoff,
    Nat.add_sub_cancel_left, writeWindow_key_word (s := answer (.written .okay) s) hidle h]
  rfl

theorem before_of_events {s : State} {e : Event} {r : List Event} (h : s.events = e :: r) :
    before e { s with events := r } = s := by
  rw [before, ← h]

theorem run_keyWrite {s : State} (hr : s.inReset = false) (hidle : s.phase = .idle) {w : Nat} {q : Quad}
    {r : List Event} (hw : w < 4) (he : s.events = keyWrite w q :: r) (n : Nat) :
    Sys2Proof.core.run (n + 1) s =
      Sys2Proof.core.run n (answer (.written .okay) { s with key := setColumn s.key w q, events := r }) := by
  have hstep := step_keyWrite (s := { s with events := r }) hr hidle hw q
  rw [before_of_events he] at hstep
  exact run_succ hstep n

/-- Settles O48: the four writes put in the four columns of the key. -/
theorem ldKeyLoadsTheKey : Obligations.LdKeyLoadsTheKey := by
  unfold Obligations.LdKeyLoadsTheKey
  intro s k hr hidle _
  have hevents : hostEvents (ldKey k) = [keyWrite 0 k.c0, keyWrite 1 k.c1, keyWrite 2 k.c2, keyWrite 3 k.c3] := rfl
  refine ⟨{ s with key := k, answers := List.replicate 4 (.written .okay) ++ s.answers }, ?_, rfl⟩
  rw [hevents]
  refine Eq.trans (run_keyWrite (w := 0) (by exact hr) (by exact hidle) (by decide) (by rfl) 3) ?_
  refine Eq.trans (run_keyWrite (w := 1) (by exact hr) (by exact hidle) (by decide) (by rfl) 2) ?_
  refine Eq.trans (run_keyWrite (w := 2) (by exact hr) (by exact hidle) (by decide) (by rfl) 1) ?_
  refine Eq.trans (run_keyWrite (w := 3) (by exact hr) (by exact hidle) (by decide) (by rfl) 0) ?_
  simp only [Host.Core.run, answer, setColumn_four]
  rfl

end Sys2Proof.Machine
end

section
/-! PROOFS. LDBUF (R99): the lanes that a write stores into IN_BUF, at every index; the run of its words; and from these
O49. -/

namespace Sys2Proof.Machine

/-! ### A write to IN_BUF, at every index (R67) -/

/-- `t` is `s` after the lanes `0 .. k-1` of `v` that the mask selects were stored into IN_BUF from index `base` on. -/
structure LanesInBuf (base : Nat) (strb : Strobe) (v : Word) (k : Nat) (s t : State) : Prop where
  frame : t = { s with inBuf := t.inBuf }
  wf : t.inBuf.wf
  read : ∀ a, t.inBuf.read a =
    if base ≤ a ∧ a < base + k ∧ strb.getLsbD (a - base) = true then lane v (a - base) else s.inBuf.read a

theorem LanesInBuf.zero (base : Nat) (strb : Strobe) (v : Word) {s : State} (h : s.inBuf.wf) :
    LanesInBuf base strb v 0 s s :=
  ⟨rfl, h, fun a => by rw [if_neg (by omega)]⟩

theorem LanesInBuf.succ {base k : Nat} {strb : Strobe} {v : Word} {s t : State} (h : LanesInBuf base strb v k s t) :
    LanesInBuf base strb v (k + 1) s (storeLane storeInBuf base strb v k t) := by
  unfold storeLane
  split
  · next hset =>
    refine ⟨congrArg (storeInBuf (base + k) (lane v k)) h.frame, Memory.wf_write h.wf _ _, fun a => ?_⟩
    rw [storeInBuf_inBuf]
    by_cases heq : a = base + k
    · have hd : a - base = k := by omega
      rw [heq, Memory.read_write_same h.wf, ← heq, hd, if_pos ⟨by omega, by omega, hset⟩]
    · rw [Memory.read_write_other _ _ (Ne.symm heq), h.read a]
      exact if_congr (lanes_succ_iff heq _).symm rfl rfl
  · next hclear =>
    refine ⟨h.frame, h.wf, fun a => ?_⟩
    rw [h.read a]
    by_cases heq : a = base + k
    · have hd : a - base = k := by omega
      rw [hd, if_neg fun hin => hclear hin.2.2, if_neg fun hin => hclear hin.2.2]
    · exact if_congr (lanes_succ_iff heq _).symm rfl rfl

theorem lanesInBuf_writeWindow {s : State} (hidle : s.phase = .idle) (hwf : s.inBuf.wf) (base : Nat) (strb : Strobe)
    (v : Word) : LanesInBuf base strb v 4 s (writeWindow storeInBuf base strb v s) := by
  rw [writeWindow_of_idle _ _ _ _ (isBusy_of_idle s hidle)]
  exact .succ (.succ (.succ (.succ (.zero _ _ _ hwf))))

/-! ### One word of LDBUF -/

/-- The mask of word `w` selects the lanes of the data (R99). -/
theorem getLsbD_tailStrobe (len w : Nat) {i : Nat} (h : i < 4) :
    (tailStrobe len w).getLsbD i = decide (4 * w + i < len) := by
  unfold tailStrobe
  simp only [getLsbD_append_ofBool]
  interval_cases i <;> simp

/-- The event of word `w` of LDBUF. -/
def bufWrite (d : List Byte) (w : Nat) : Event :=
  .write (wordOffset 0x1000 w) (tailStrobe d.length w) (wordFrom (byteAt d) (4 * w))

theorem hostEvents_ldBuf (d : List Byte) :
    hostEvents (ldBuf d) = (List.range' 0 ((d.length + 3) / 4)).map (bufWrite d) ++
      [.write 0x014#14 0b1111#4 (BitVec.ofNat 32 d.length)] := by
  rw [hostEvents, ldBuf, List.map_append, List.map_map, List.range_eq_range']
  rfl

/-- `t` is `s` after the bytes of `d` below index `n` were loaded into IN_BUF. -/
structure InBufLoaded (d : List Byte) (n : Nat) (s t : State) : Prop where
  frame : t = { s with inBuf := t.inBuf, answers := t.answers, events := t.events }
  wf : t.inBuf.wf
  read : ∀ a, t.inBuf.read a = if a < n ∧ a < d.length then byteAt d a else s.inBuf.read a

theorem InBufLoaded.start (d : List Byte) {s : State} (h : s.inBuf.wf) (r : List Event) :
    InBufLoaded d 0 s { s with events := r } :=
  ⟨rfl, h, fun a => by rw [if_neg (by omega)]⟩

/-- The core still takes writes. -/
theorem InBufLoaded.ready {d : List Byte} {n : Nat} {s t : State} (h : InBufLoaded d n s t) :
    t.inReset = s.inReset ∧ t.phase = s.phase ∧ t.bufBytes = s.bufBytes :=
  ⟨by rw [h.frame], by rw [h.frame], by rw [h.frame]⟩

/-- Taking an event and recording an answer load nothing. -/
theorem InBufLoaded.answer {d : List Byte} {n : Nat} {s t : State} (h : InBufLoaded d n s t) (a : Answer)
    (r : List Event) : InBufLoaded d n s (answer a { t with events := r }) :=
  ⟨congrArg (fun u : State => Machine.answer a { u with answers := t.answers, events := r }) h.frame, h.wf, h.read⟩

/-- The lanes of word `w` are the bytes `4w .. 4w+3` of the data, as far as it goes. -/
theorem InBufLoaded.word {d : List Byte} {w : Nat} {s t u : State} (h : InBufLoaded d (4 * w) s t)
    (k : LanesInBuf (4 * w) (tailStrobe d.length w) (wordFrom (byteAt d) (4 * w)) 4 t u) :
    InBufLoaded d (4 * (w + 1)) s u := by
  have hanswers : u.answers = t.answers := by rw [k.frame]
  have hevents : u.events = t.events := by rw [k.frame]
  refine ⟨?frame, k.wf, fun a => ?read⟩
  case frame =>
    rw [hanswers, hevents]
    exact k.frame.trans (congrArg (fun x : State => { x with inBuf := u.inBuf }) h.frame)
  case read =>
    rw [k.read a, h.read a]
    by_cases hword : 4 * w ≤ a ∧ a < 4 * w + 4
    · obtain ⟨hlo, hhi⟩ := hword
      have hidx : 4 * w + (a - 4 * w) = a := by omega
      simp only [getLsbD_tailStrobe _ _ (show a - 4 * w < 4 by omega), hidx, decide_eq_true_eq]
      rw [lane_wordFrom _ _ (by omega), hidx, if_neg (c := a < 4 * w ∧ a < d.length) (by omega)]
      exact if_congr (by omega) rfl rfl
    · rw [if_neg fun hin => hword ⟨hin.1, hin.2.1⟩]
      exact if_congr (by omega) rfl rfl

theorem step_bufWrite {s : State} (hr : s.inReset = false)
    (hlegal : Config.legalBufBytes s.bufBytes) {d : List Byte} {w : Nat} (hw : 4 * w < s.bufBytes) :
    step (before (bufWrite d w) s) = .next (writeWindow storeInBuf (4 * w) (tailStrobe d.length w)
      (wordFrom (byteAt d) (4 * w)) (answer (.written .okay) s)) := by
  obtain ⟨-, hcap, -⟩ := hlegal
  have hoff := toNat_wordOffset (base := 0x1000) (w := w) (by omega)
  have hok : badOffset s (wordOffset 0x1000 w) = false :=
    (badOffset_eq_false_iff _ _).2 ⟨by omega, .inr (.inl (by omega))⟩
  rw [bufWrite, step_okay_write hr _ hok (by omega), writeLocation_inBuf _ _ _ (by omega) (by omega), hoff,
    Nat.add_sub_cancel_left]

/-! ### The run of LDBUF -/

section
variable {s : State} {d : List Byte} (hr : s.inReset = false) (hidle : s.phase = .idle)
  (hlegal : Config.legalBufBytes s.bufBytes) (hfits : d.length ≤ s.bufBytes)
include hr hidle hlegal hfits

/-- The step of one word's write. -/
theorem InBufLoaded.step_word {w : Nat} {t : State} (h : InBufLoaded d (4 * w) s t) (hw : 4 * w < d.length)
    {r : List Event} (he : t.events = bufWrite d w :: r) :
    ∃ u, step t = .next u ∧ InBufLoaded d (4 * (w + 1)) s u ∧ u.events = r := by
  obtain ⟨hrt, hphase, hcap⟩ := h.ready
  have hstep := step_bufWrite (s := { t with events := r }) (d := d) (w := w) (hrt.trans hr)
    (hcap ▸ hlegal) (show 4 * w < t.bufBytes by omega)
  rw [before_of_events he] at hstep
  have hanswered := h.answer (.written .okay) r
  have hlanes := lanesInBuf_writeWindow (hanswered.ready.2.1.trans hidle) hanswered.wf (4 * w) (tailStrobe d.length w)
    (wordFrom (byteAt d) (4 * w))
  exact ⟨_, hstep, hanswered.word hlanes, congrArg State.events hlanes.frame⟩

/-- The words `w .. w+n-1` of the data, written one after the other. -/
theorem InBufLoaded.run_words {rest : List Event} (n : Nat) {w : Nat} {t : State} (h : InBufLoaded d (4 * w) s t)
    (hw : 4 * (w + n) < d.length + 4) (he : t.events = (List.range' w n).map (bufWrite d) ++ rest) :
    ∃ u, (∀ m, Sys2Proof.core.run (n + m) t = Sys2Proof.core.run m u) ∧ InBufLoaded d (4 * (w + n)) s u ∧
      u.events = rest := by
  induction n generalizing w t with
  | zero => exact ⟨t, fun m => by rw [Nat.zero_add], h, he⟩
  | succ n ih =>
    obtain ⟨v, hstep, hv, hev⟩ := h.step_word hr hidle hlegal hfits (by omega) he
    have hshift : w + 1 + n = w + (n + 1) := by omega
    obtain ⟨u, hrun, hu, hrest⟩ := ih hv (by omega) hev
    refine ⟨u, fun m => ?_, hshift ▸ hu, hrest⟩
    rw [← hrun m, Nat.add_right_comm]
    exact run_succ hstep (n + m)

end

theorem Memory.bytes_eq_of_read {m : Memory} {d : List Byte} (h : ∀ i, i < d.length → m.read i = byteAt d i) :
    m.bytes d.length = d := by
  refine List.ext_getElem (Memory.length_bytes m _) fun i hm hi => ?_
  rw [← List.getD_eq_getElem _ 0x00#8 hm, Memory.getD_bytes m _ hi, h i hi, byteAt, List.getD_eq_getElem d _ hi]

/-- The write to IN_LEN that ends LDBUF. -/
theorem step_inLen_write {s : State} (hr : s.inReset = false) (hidle : s.phase = .idle) (v : Word) :
    step (before (.write 0x014#14 0b1111#4 v) s) =
      .next { s with inLen := v, answers := .written .okay :: s.answers } := by
  rw [step_full_control_write hr v (by decide) (by decide)]
  exact congrArg Host.Outcome.next (writeInLen_of_idle v (s := answer (.written .okay) s) hidle)

/-- Settles O49: the words load the data and nothing beyond it, and the last write its length. -/
theorem ldBufLoadsTheInput : Obligations.LdBufLoadsTheInput := by
  unfold Obligations.LdBufLoadsTheInput
  intro s d hr hidle hlegal hwf hfits
  have hevents : hostEvents (ldBuf d) ++ s.events = (List.range' 0 ((d.length + 3) / 4)).map (bufWrite d) ++
      .write 0x014#14 0b1111#4 (BitVec.ofNat 32 d.length) :: s.events := by
    rw [hostEvents_ldBuf, List.append_assoc, List.singleton_append]
  obtain ⟨u, hrun, hloaded, hu⟩ := InBufLoaded.run_words (w := 0) hr hidle hlegal hfits ((d.length + 3) / 4)
    (InBufLoaded.start d hwf _) (by omega) hevents
  obtain ⟨hru, hphase, -⟩ := hloaded.ready
  have hlast := step_inLen_write (s := { u with events := s.events }) (hru.trans hr) (hphase.trans hidle)
    (BitVec.ofNat 32 d.length)
  rw [before_of_events hu] at hlast
  have hlen : (BitVec.ofNat 32 d.length).toNat = d.length := by
    rw [BitVec.toNat_ofNat]
    omega
  refine ⟨_, (hrun 1).trans (run_succ hlast 0), hlen, ?data, fun i hi => ?beyond, ?frame⟩
  case data =>
    rw [dataIn, hlen]
    exact Memory.bytes_eq_of_read fun i hi => (hloaded.read i).trans (if_pos (by omega))
  case beyond => exact (hloaded.read i).trans (if_neg (by omega))
  case frame =>
    exact congrArg (fun x : State => { x with
      inLen := BitVec.ofNat 32 d.length, answers := .written .okay :: u.answers, events := s.events }) hloaded.frame

end Sys2Proof.Machine
end

section
/-! PROOFS. Reset (R42, R340): the values it gives, the same whatever was in flight; that in reset nothing is
answered; and from these O54 to O56. -/

namespace Sys2Proof.Machine

/-! ### The values after reset (R42) -/

/-- The registers that R42 gives a value have it, and the core is idle. -/
structure ResetDone (s : State) : Prop where
  ie : s.ie = false
  status : statusWord s = 0
  errcode : errcodeWord s = 0
  inLen : s.inLen = 0
  outLen : s.outLen = 0
  blocks : ∀ i, blockByte s.key i = 0 ∧ blockByte s.iv i = 0
  keyv : s.keyv = false
  idle : s.phase = .idle
  irq : irq s = false

theorem resetDone_reset : ResetDone State.reset where
  ie := rfl
  status := by decide
  errcode := by decide
  inLen := rfl
  outLen := rfl
  blocks i := ⟨blockByte_zeroBlock i, blockByte_zeroBlock i⟩
  keyv := rfl
  idle := rfl
  irq := rfl

theorem resetDone_resetState (s : State) : ResetDone (resetState s) :=
  { resetDone_reset with }

/-- Settles O54. -/
theorem resetValues : Obligations.ResetValues := by
  unfold Obligations.ResetValues
  have h := resetDone_reset
  exact ⟨h.ie, h.status, h.errcode, h.inLen, h.outLen, h.blocks, h.keyv, h.idle, h.irq⟩

/-! ### Assertion and release (R340) -/

theorem step_resetAssert {s : State} (hr : s.inReset = false) :
    step (before .resetAssert s) = .next { s with inReset := true } := by
  simp [step, advance, before, hr, serve]

theorem step_resetRelease {s : State} (hr : s.inReset = true) :
    step (before .resetRelease s) = .next (resetState s) := by
  simp only [step, advance, before, hr, afterRelease, if_true]
  rfl

/-- Settles O55: the assertion keeps the registers, and the release sets them whatever they hold. -/
theorem resetAbortsAndDefines : Obligations.ResetAbortsAndDefines := by
  unfold Obligations.ResetAbortsAndDefines
  intro s hr
  have h := resetDone_resetState s
  refine ⟨resetState s, fun p => ?run, h.ie, h.status, h.errcode, h.inLen, h.outLen, h.blocks, h.keyv, h.idle, h.irq,
    rfl, rfl, rfl⟩
  case run =>
    have hassert := step_resetAssert (s := before .resetRelease { s with phase := p }) hr
    have hrelease : step { before .resetRelease { s with phase := p } with inReset := true } = .next (resetState s) :=
      step_resetRelease (s := { s with phase := p, inReset := true }) rfl
    exact (run_succ hassert 1).trans (run_succ hrelease 0)

/-- Settles O56: a step in reset waits, or is the release. -/
theorem nothingIsAnsweredInReset : Obligations.NothingIsAnsweredInReset := by
  unfold Obligations.NothingIsAnsweredInReset
  intro s t hr ht
  have hirq : irq s = false := by simp [irq, hr]
  rcases advance_cases s with ⟨_, _, hheld⟩ | ⟨_, r, _, hrelease⟩ | ⟨hr', _⟩ | ⟨hr', _⟩
  · cases hheld.symm.trans ht
    exact ⟨hirq, rfl, .inl rfl⟩
  · cases hrelease.symm.trans ht
    exact ⟨hirq, rfl, .inr rfl⟩
  · cases hr.symm.trans hr'
  · cases hr.symm.trans hr'

end Sys2Proof.Machine
end

section
/-! PROOFS. The known answers of 95_test_vectors.md (V1.1, V2.3, V2.6), each by running the functions; and from these
O39. -/

namespace Sys2Proof.Machine

/-- Settles O39, vector by vector. -/
theorem knownAnswers : Obligations.KnownAnswers := by
  unfold Obligations.KnownAnswers
  refine ⟨?enc, ?dec, ?roundKey1, ?roundKey2, ?cbcEnc, ?cbcDec⟩ <;> decide +kernel

end Sys2Proof.Machine
end
